-- ==== Sys2Proof/Word.lean ====
section
/-!
DEFINITION. The word types of the engine: bytes, 32-bit words, byte strings, 16-byte blocks and the 60-word key schedule.
-/

namespace Sys2Proof

/-- A buffer byte (20_memory.md R60) or a GF(2⁸) element (40_field_and_roms.md R120); bit 7 is the most significant. -/
abbrev Byte := BitVec 8

/-- A register, a schedule word or a command word: 32 bits (10_state.md R22, R30; 30_encoding.md R90). -/
abbrev Word := BitVec 32

/-- A byte sequence, byte 0 first (00_scope.md, notation). -/
abbrev Bytes := List Byte

/-- A 16-byte block, byte 0 first (00_scope.md R8). -/
abbrev Block := Vector Byte 16

/-- The key schedule W[0] to W[59] (10_state.md R30). -/
abbrev Schedule := Vector Word 60

end Sys2Proof
end

