-- ==== Sys2Proof/Syntax.lean ====
section
/-!
DEFINITION. The engine's commands, one constructor per row of spec/opcode_table.json (30_encoding.md R91).
-/

namespace Sys2Proof

/-- The eight commands. A command word holds an operation code and nothing else, so no constructor has a field (30_encoding.md
R90: "no register numbers, no immediates, no mode bits"). -/
inductive Instr where
  /-- Key expansion: `NewCipher(key)` (41_key_expansion.md R156). -/
  | keyexp
  /-- Encrypt one block (42_cipher.md R182). -/
  | enc
  /-- Decrypt one block (42_cipher.md R183). -/
  | dec
  /-- Authenticated encryption (43_gcm.md R227). -/
  | gcmEnc
  /-- Authenticated decryption (43_gcm.md R229). -/
  | gcmDec
  /-- GHASH as a unit command (43_gcm.md R231). -/
  | ghash
  /-- One GF(2⁸) product (40_field_and_roms.md R130). -/
  | gfmul8
  /-- One GF(2¹²⁸) product (43_gcm.md R232). -/
  | gfmul128
  deriving DecidableEq, Repr

end Sys2Proof
end

