-- ==== Sys2Proof/WellFormed.lean ====
section
/-!
DEFINITION. Which command words are well-formed (30_encoding.md R90 to R92): RSVD is 0 and OP is one of the eight operation
codes. A term of `Instr` has no field, so no term of it is ill-formed; the checks are on the word.
-/

namespace Sys2Proof

/-- OP, bits 7:0 of a command word (30_encoding.md R90). -/
def opOf (w : Word) : Byte := w.setWidth 8

/-- RSVD, bits 31:8 of a command word (30_encoding.md R90). -/
def rsvdOf (w : Word) : BitVec 24 := w.extractLsb' 8 24

/-- The reserved field is 0 (30_encoding.md R92: "every word whose RSVD ≠ 0" is illegal). -/
def rsvdClear (w : Word) : Bool := rsvdOf w == 0#24

/-- The operation code is assigned: 0x01 to 0x08 (30_encoding.md R91, R92). -/
def opAssigned (w : Word) : Bool := decide (1 ≤ (opOf w).toNat) && decide ((opOf w).toNat ≤ 8)

/-- A well-formed command word: one of the eight rows of 30_encoding.md R91. -/
def wellFormedWord (w : Word) : Bool := rsvdClear w && opAssigned w

/-- Every command term is well-formed: it has no operand that could be out of range (30_encoding.md R90). -/
def Instr.wellFormed (i : Instr) : Bool :=
  match i with
  | .keyexp | .enc | .dec | .gcmEnc | .gcmDec | .ghash | .gfmul8 | .gfmul128 => true

end Sys2Proof
end

