-- ==== Sys2Proof/Decode.lean ====
section
/-!
DEFINITION. The decoder, total on every 32-bit word and refusing by name (30_encoding.md R90 to R92), and after it the encoder
(30_encoding.md R91).
-/

namespace Sys2Proof

/-- Why a word is no command (30_encoding.md R92). Both end with IllegalCommand (60_exceptions.md R261). -/
inductive DecodeError where
  /-- RSVD, bits 31:8, is not 0. -/
  | reservedNotZero
  /-- RSVD is 0 and OP is 0x00 or 0x09 to 0xFF. -/
  | unassignedOp
  deriving DecidableEq, Repr

/-- The command a word stands for: the whole word selects the row (30_encoding.md R91, mask 0xFFFFFFFF). -/
def decode (w : Word) : Except DecodeError Instr :=
  if rsvdClear w = false then .error .reservedNotZero
  else if opOf w = 0x01#8 then .ok .keyexp
  else if opOf w = 0x02#8 then .ok .enc
  else if opOf w = 0x03#8 then .ok .dec
  else if opOf w = 0x04#8 then .ok .gcmEnc
  else if opOf w = 0x05#8 then .ok .gcmDec
  else if opOf w = 0x06#8 then .ok .ghash
  else if opOf w = 0x07#8 then .ok .gfmul8
  else if opOf w = 0x08#8 then .ok .gfmul128
  else .error .unassignedOp

/-- The command that a table word of `nbits` bits stands for, bit 0 the least significant bit of the word. A command is one
32-bit word handed to CMD in one host write, never bytes in a memory that is fetched from (10_state.md R21, R23), so the word's
bits ARE what the decoder reads; bits above `nbits` are 0. -/
def decodeTableWord (nbits w : Nat) : Option Instr :=
  match decode (BitVec.ofNat 32 (w % 2 ^ nbits)) with
  | .ok i => some i
  | .error _ => none

/-- The command word of a command (30_encoding.md R91, column "word"). -/
def encode (i : Instr) : Word :=
  match i with
  | .keyexp => 0x00000001#32
  | .enc => 0x00000002#32
  | .dec => 0x00000003#32
  | .gcmEnc => 0x00000004#32
  | .gcmDec => 0x00000005#32
  | .ghash => 0x00000006#32
  | .gfmul8 => 0x00000007#32
  | .gfmul128 => 0x00000008#32

end Sys2Proof
end

