-- ==== Sys2Proof/Machine/Bytes.lean ====
section
/-!
DEFINITION. Byte order, padding and cutting: the notation of 00_scope.md section 6 (BE32, BE64, int, bytes16, pad16, blocks, MSB,
⊕), all big-endian (00_scope.md R14).
-/

namespace Sys2Proof.Machine

/-- BE32(b0, b1, b2, b3): b0 in bits 31:24, b3 in bits 7:0. -/
def be32 (b0 b1 b2 b3 : Byte) : Word :=
  (b0.setWidth 32 <<< 24) ||| (b1.setWidth 32 <<< 16) ||| (b2.setWidth 32 <<< 8) ||| b3.setWidth 32

/-- The 16-bit big-endian value of two bytes: b0 in bits 15:8 (20_memory.md R60). -/
def be16 (b0 b1 : Byte) : BitVec 16 := (b0.setWidth 16 <<< 8) ||| b1.setWidth 16

/-- Byte k of a word, byte 0 in bits 31:24 (42_cipher.md R178). -/
def wordByte (w : Word) (k : Fin 4) : Byte := w.extractLsb' (8 * (3 - k.val)) 8

/-- The four bytes of a word, byte 0 first (41_key_expansion.md R150). -/
def wordBytes (w : Word) : Bytes := [wordByte w 0, wordByte w 1, wordByte w 2, wordByte w 3]

/-- BE64(n): the 8-byte big-endian encoding of n. -/
def be64 (n : Nat) : Bytes := (List.range 8).map fun k => BitVec.ofNat 8 (n >>> (8 * (7 - k)))

/-- The 16-byte block of the first sixteen bytes of a string, zero-filled where the string is shorter. -/
def Block.ofBytes (l : Bytes) : Block := Vector.ofFn fun i => l.getD i.val 0#8

/-- The block as a byte string. -/
def Block.toBytes (b : Block) : Bytes := b.toList

/-- The block of sixteen zero bytes. -/
def Block.zero : Block := Vector.ofFn fun _ => 0#8

/-- Bytewise exclusive-or of two blocks. -/
def Block.xor (a b : Block) : Block := Vector.ofFn fun i => a[i] ^^^ b[i]

/-- int(B) of a 16-byte block: its big-endian value, byte 0 most significant. -/
def Block.int (b : Block) : BitVec 128 := b.toList.foldl (fun acc x => (acc <<< 8) ||| x.setWidth 128) 0#128

/-- bytes16(n): the 16-byte big-endian encoding of a 128-bit value. -/
def bytes16 (v : BitVec 128) : Block := Vector.ofFn fun i => v.extractLsb' (8 * (15 - i.val)) 8

/-- pad16(B): B followed by the fewest zero bytes that make its length a multiple of 16. -/
def pad16 (l : Bytes) : Bytes := l ++ List.replicate ((16 - l.length % 16) % 16) 0#8

/-- blocks(B), with the number of pieces bounded by the first argument. -/
def cutBlocks : Nat → Bytes → List Bytes
  | 0, _ => []
  | _ + 1, [] => []
  | n + 1, b :: l => (b :: l).take 16 :: cutBlocks n ((b :: l).drop 16)

/-- blocks(B): B cut into consecutive 16-byte pieces; the last one may be shorter. -/
def blocks (l : Bytes) : List Bytes := cutBlocks l.length l

/-- X ⊕ MSB_{|X|}(K): bytewise exclusive-or with the first |X| bytes of K (43_gcm.md R224). -/
def xorFirst (x : Bytes) (k : Block) : Bytes := List.zipWith (fun a b => a ^^^ b) x (Block.toBytes k)

end Sys2Proof.Machine
end

