-- ==== Sys2Proof/Config.lean ====
section
/-!
DEFINITION. What an implementation of the engine fixes: its parameters (00_scope.md R9) and the one ROM word the spec leaves
open (40_field_and_roms.md R128).
-/

namespace Sys2Proof

/-- The implementation parameters of 00_scope.md R9. They are model arguments: `State` carries one `Config` that no step changes,
so a statement about every state is a statement about every choice of them. -/
structure Config where
  /-- BUF_SIZE is 2^(6 + bufScale): every power of two from 64 to 2²⁰, and no other size (00_scope.md R9). -/
  bufScale : Fin 15
  /-- SCHED_VISIBLE: whether SCHED and HSUB read back W and H (00_scope.md R9). -/
  schedVisible : Bool
  /-- ENGINE_BASE: the host bus address of offset 0 (00_scope.md R9, OPEN). -/
  engineBase : Nat
  deriving DecidableEq, Repr

/-- BUF_SIZE in bytes (00_scope.md R9). -/
def Config.bufSize (c : Config) : Nat := 2 ^ (6 + c.bufScale.val)

/-- The spec's default parameters, BUF_SIZE = 65536 and SCHED_VISIBLE = true (00_scope.md R9). ENGINE_BASE is OPEN there:
DESIGN CHOICE 0 (log 3). -/
def Config.default : Config := { bufScale := 10, schedVisible := true, engineBase := 0 }

/-- RCON[0]: "never read, and its value is not specified" (40_field_and_roms.md R128). A free value: nothing constrains it
(log 9). -/
opaque Config.rconZero : Word

end Sys2Proof
end

