-- ==== Sys2Proof/Machine/State.lean ====
section
/-!
DEFINITION. The state of the machine: the engine's registers, key schedule, hash subkey and buffer (10_state.md), the environment
that acts on it as plain data (00_scope.md R10, R11), and its value right after reset (10_state.md R44).
-/

namespace Sys2Proof.Machine

/-- The result codes of STATUS.ERRCODE (60_exceptions.md R260). Codes 10 to 15 are reserved and never produced, so they cannot be
written down here. -/
inductive ResultCode where
  /-- 0: success. -/
  | ok
  /-- 1: KEYEXP with SRC_LEN ≠ 32. -/
  | invalidKeyLength
  /-- 2: ENC or DEC with SRC_LEN ≠ 16. -/
  | invalidBlockLength
  /-- 3: GCM_DEC whose recomputed tag differs from the supplied one. -/
  | authenticationFailure
  /-- 4: reserved, never produced (60_exceptions.md R270; log 11). -/
  | internalInvariantViolation
  /-- 5: OP unassigned or RSVD ≠ 0. -/
  | illegalCommand
  /-- 6: a command that needs the key, with KEY_VALID = 0. -/
  | noKey
  /-- 7: GCM_ENC or GCM_DEC with NONCE_LEN ≠ 12. -/
  | unsupportedNonceLength
  /-- 8: a region out of range. -/
  | rangeError
  /-- 9: a forbidden overlap. -/
  | overlapError
  deriving DecidableEq, Repr

/-- The eight operand registers (10_state.md R28). -/
inductive OperandReg where
  | srcAddr | srcLen | dstAddr | aadAddr | aadLen | nonceAddr | nonceLen | tagAddr
  deriving DecidableEq, Repr

/-- The contents of the operand registers, 32 bits each (10_state.md R22, R28). -/
structure OperandRegs where
  srcAddr : Word
  srcLen : Word
  dstAddr : Word
  aadAddr : Word
  aadLen : Word
  nonceAddr : Word
  nonceLen : Word
  tagAddr : Word
  deriving DecidableEq, Repr

/-- The size of a host access, 1, 2 or 4 bytes (20_memory.md R64). -/
inductive AccessSize where
  | b1 | b2 | b4
  deriving DecidableEq, Repr

/-- The data of a host access: a value of 8·size bits (20_memory.md R64). -/
inductive HostData where
  | b1 (v : BitVec 8)
  | b2 (v : BitVec 16)
  | b4 (v : BitVec 32)
  deriving DecidableEq, Repr

/-- A host transaction; `off` is a byte offset from ENGINE_BASE (20_memory.md R64). -/
inductive HostTx where
  | read (off : Word) (size : AccessSize)
  | write (off : Word) (data : HostData)
  deriving DecidableEq, Repr

/-- The response of a host transaction (20_memory.md R64). A read with BUSERR returns no data. -/
inductive HostResponse where
  /-- OKAY to a read, with its data. -/
  | okayRead (data : HostData)
  /-- OKAY to a write. -/
  | okayWrite
  /-- BUSERR. -/
  | busErr
  deriving DecidableEq, Repr

/-- What happens next at the engine: one of the three kinds of step of 00_scope.md R11 (log 1). -/
inductive Event where
  /-- `HostStep(tx)`. -/
  | host (tx : HostTx)
  /-- The engine's turn: `EngineStep` where BUSY = 1, and nothing where it is not enabled (log 2). -/
  | engine
  /-- `Reset` (70_reset_and_hazards.md R290). -/
  | reset
  deriving DecidableEq, Repr

/-- The model faults of 20_memory.md R73: states to which the model gives no meaning. Neither is a behaviour of the chip. -/
inductive Fault where
  /-- A read of buffer byte `addr` while def[addr] was false: raised by an engine MemRead (R62) and by a host buffer read (R67).
  Safe: the chip goes on with some byte that the model does not name. -/
  | uninitRead (addr : Nat)
  /-- A table index outside its table: raised by KEYEXP for an Rcon index above 31, which cannot happen (41_key_expansion.md R154,
  60_exceptions.md R270). Safe: it is unreachable. -/
  | internalInvariant
  deriving DecidableEq, Repr

/-- Why the model has no meaning for a command. Every command has one, so nothing raises this. -/
inductive Refusal where
  /-- A command with no meaning yet: raised by `exec`'s arm of that command and by nothing else. Safe. -/
  | notModelled (mnemonic : String)
  deriving DecidableEq, Repr

/-- The machine (10_state.md). Views with no storage of their own (STATUS as a word, ERR, CAPS, irq) are in Machine/Flags.lean. -/
structure State where
  /-- The implementation parameters (00_scope.md R9); no step changes them (log 3). -/
  config : Config
  /-- STATUS.BUSY (10_state.md R24). -/
  busy : Bool
  /-- STATUS.DONE (10_state.md R24). -/
  done : Bool
  /-- STATUS.DROP (10_state.md R24, R38). -/
  drop : Bool
  /-- STATUS.ERRCODE (10_state.md R24). -/
  errcode : ResultCode
  /-- STATUS.LASTOP (10_state.md R24). -/
  lastop : Byte
  /-- KEY_VALID (10_state.md R34). -/
  keyValid : Bool
  /-- CTRL.IE (10_state.md R26). -/
  ie : Bool
  /-- The operand registers (10_state.md R28). -/
  opr : OperandRegs
  /-- LATCH (10_state.md R35). -/
  latch : Word
  /-- The key schedule W (10_state.md R30). -/
  sched : Schedule
  /-- The hash subkey H (10_state.md R32). -/
  hsub : Block
  /-- BUF with its definedness marks: byte `a` is listed exactly when def[a] is true; addresses strictly rising (20_memory.md R60,
  10_state.md R42; log 4). -/
  buf : List Host.Cell
  /-- The fault record, oldest first (10_state.md R43; log 5). -/
  faults : List Fault
  /-- The model's own: the events still to come, next one first (log 1). -/
  script : List Event
  /-- The model's own: the responses of the host transactions taken, oldest first (00_scope.md R13; log 1). -/
  responses : List HostResponse
  deriving DecidableEq, Repr

/-- The operand registers after reset: 0 each (10_state.md R44). -/
def OperandRegs.reset : OperandRegs :=
  { srcAddr := 0#32, srcLen := 0#32, dstAddr := 0#32, aadAddr := 0#32, aadLen := 0#32, nonceAddr := 0#32, nonceLen := 0#32,
    tagAddr := 0#32 }

/-- The machine right after reset (10_state.md R44), with the spec's default parameters, an empty fault record and nothing
scripted (logs 1, 3, 5). -/
def State.reset : State :=
  { config := Config.default
    busy := false
    done := false
    drop := false
    errcode := .ok
    lastop := 0#8
    keyValid := false
    ie := false
    opr := OperandRegs.reset
    latch := 0#32
    sched := Vector.replicate 60 0#32
    hsub := Vector.replicate 16 0#8
    buf := []
    faults := []
    script := []
    responses := [] }

end Sys2Proof.Machine
end

