-- ==== Sys2Proof/Machine/Ops.lean ====
section
/-!
DEFINITION. The named operations over the buffer and the registers: reading and writing buffer bytes (20_memory.md R62, R63),
accepting and completing a command (10_state.md R23, R36), ending a command with an error (60_exceptions.md R266), installing an
instance (41_key_expansion.md R156) and reset (70_reset_and_hazards.md R290).
-/

namespace Sys2Proof.Machine

/-- The buffer: (address, byte) pairs, an unlisted address being undefined (10_state.md R42). -/
abbrev Memory := List Host.Cell

/-- The canonical form: addresses strictly rising. An unlisted address has no value, so no entry can repeat it. -/
abbrev Memory.wf (m : Memory) : Prop := m.Pairwise fun c d => c.1 < d.1

/-- The byte at `x`, or none where def[x] is false (10_state.md R42). -/
def Memory.read : Memory → Nat → Option Byte
  | [], _ => none
  | (a, b) :: m, x => if x = a then some b else Memory.read m x

/-- BUF[x] <- v and def[x] <- true, keeping the addresses rising (20_memory.md R63, R68). -/
def Memory.write : Memory → Nat → Byte → Memory
  | [], x, v => [(x, v)]
  | (a, b) :: m, x, v =>
    if x < a then (x, v) :: (a, b) :: m
    else if x = a then (x, v) :: m
    else (a, b) :: Memory.write m x v

/-- The `n` bytes from `a` on, or UninitRead of the first one that is undefined (20_memory.md R62, R67; log 6). -/
def Memory.readBytes (m : Memory) : Nat → Nat → Except Fault Bytes
  | _, 0 => .ok []
  | a, n + 1 =>
    match Memory.read m a with
    | none => .error (.uninitRead a)
    | some b =>
      match Memory.readBytes m (a + 1) n with
      | .error f => .error f
      | .ok l => .ok (b :: l)

/-- Writes the bytes of a string to `a`, `a + 1`, … (20_memory.md R63, R68). -/
def Memory.writeBytes : Memory → Nat → Bytes → Memory
  | m, _, [] => m
  | m, a, v :: l => Memory.writeBytes (Memory.write m a v) (a + 1) l

/-- def[a] (10_state.md R42). -/
def State.defined (s : State) (a : Nat) : Bool := (Memory.read s.buf a).isSome

/-- `MemRead(a, n)` (20_memory.md R62). -/
def State.memRead (s : State) (a n : Nat) : Except Fault Bytes := Memory.readBytes s.buf a n

/-- `MemWrite(a, n, v)`, n the length of v (20_memory.md R63). -/
def State.memWrite (s : State) (a : Nat) (v : Bytes) : State := { s with buf := Memory.writeBytes s.buf a v }

/-- Acceptance of a command word: the five effects of 10_state.md R23. -/
def State.accept (s : State) (w : Word) : State :=
  { s with latch := w, lastop := w.setWidth 8, errcode := .ok, done := false, busy := true }

/-- Completion with a result code: steps (2) to (5) of 10_state.md R36. -/
def State.complete (s : State) (c : ResultCode) : State := { s with errcode := c, done := true, busy := false }

/-- `raise E`: the command ends with E's code and nothing else is written (60_exceptions.md R266, R267). The engine has no other
way to end a command early: it never traps (60_exceptions.md R272). -/
def State.raise (s : State) (e : ResultCode) : State := s.complete e

/-- A new instance: W, H and KEY_VALID all at once (41_key_expansion.md R156, R157). -/
def State.install (s : State) (w : Schedule) (h : Block) : State := { s with sched := w, hsub := h, keyValid := true }

/-- A host write is dropped because BUSY is 1 (10_state.md R38). -/
def State.dropWrite (s : State) : State := { s with drop := true }

/-- `Reset` (70_reset_and_hazards.md R290, R291): every register at the value of 10_state.md R44, no byte defined, any command
abandoned. The fault record stays (10_state.md R43), and so do the parameters and the environment's own fields (log 13). -/
def State.resetEngine (s : State) : State :=
  { State.reset with config := s.config, faults := s.faults, script := s.script, responses := s.responses }

/-- A model fault is appended to the fault record (20_memory.md R73). -/
def State.recordFault (s : State) (f : Fault) : State := { s with faults := s.faults ++ [f] }

/-- A host transaction's response is handed to the host (00_scope.md R13). -/
def State.respond (s : State) (r : HostResponse) : State := { s with responses := s.responses ++ [r] }

/-- The value of an operand register (10_state.md R28). -/
def OperandRegs.get (o : OperandRegs) (r : OperandReg) : Word :=
  match r with
  | .srcAddr => o.srcAddr
  | .srcLen => o.srcLen
  | .dstAddr => o.dstAddr
  | .aadAddr => o.aadAddr
  | .aadLen => o.aadLen
  | .nonceAddr => o.nonceAddr
  | .nonceLen => o.nonceLen
  | .tagAddr => o.tagAddr

/-- Writes an operand register: every bit is writable (10_state.md R28). -/
def OperandRegs.set (o : OperandRegs) (r : OperandReg) (v : Word) : OperandRegs :=
  match r with
  | .srcAddr => { o with srcAddr := v }
  | .srcLen => { o with srcLen := v }
  | .dstAddr => { o with dstAddr := v }
  | .aadAddr => { o with aadAddr := v }
  | .aadLen => { o with aadLen := v }
  | .nonceAddr => { o with nonceAddr := v }
  | .nonceLen => { o with nonceLen := v }
  | .tagAddr => { o with tagAddr := v }

/-- Writes an operand register of the state. -/
def State.setOperand (s : State) (r : OperandReg) (v : Word) : State := { s with opr := s.opr.set r v }

end Sys2Proof.Machine
end

