-- ==== Sys2Proof/Machine/Operands.lean ====
section
/-!
DEFINITION. Regions (20_memory.md R61), the operand table of the eight commands (30_encoding.md R94), and the checks a command
passes before it does anything, in their fixed order (60_exceptions.md R262 to R265, R269).
-/

namespace Sys2Proof.Machine

/-- A region (a, n): the bytes BUF[a], …, BUF[a+n−1] (20_memory.md R61). -/
structure Region where
  addr : Nat
  len : Nat
  deriving DecidableEq, Repr

/-- In range: n = 0, or a + n ≤ BUF_SIZE without wrap (20_memory.md R61). -/
def Region.inRange (r : Region) (size : Nat) : Bool := decide (r.len = 0) || decide (r.addr + r.len ≤ size)

/-- Overlap of two regions (20_memory.md R61). -/
def Region.overlaps (r q : Region) : Bool :=
  decide (0 < r.len) && decide (0 < q.len) && decide (r.addr < q.addr + q.len) && decide (q.addr < r.addr + r.len)

/-- What one row of 30_encoding.md R94 says of a command, its regions filled in from the operand registers. -/
structure CommandOperands where
  /-- The command needs KEY_VALID. -/
  needsKey : Bool
  /-- The code of the command's length check where that check fails. -/
  lengthError : Option ResultCode
  /-- The primary input, the region at SRC_ADDR. -/
  primaryIn : Region
  /-- The other inputs. -/
  otherIn : List Region
  /-- The primary output, the region at DST_ADDR. -/
  primaryOut : Option Region
  /-- The other outputs. -/
  otherOut : List Region
  /-- The primary output may lie exactly on the primary input (60_exceptions.md R265 (b)). -/
  inPlace : Bool
  deriving DecidableEq, Repr

/-- The input regions. -/
def CommandOperands.inputs (o : CommandOperands) : List Region := o.primaryIn :: o.otherIn

/-- The output regions. -/
def CommandOperands.outputs (o : CommandOperands) : List Region :=
  match o.primaryOut with
  | none => o.otherOut
  | some r => r :: o.otherOut

/-- The range check holds: every region of the command is in range (60_exceptions.md R264). -/
def CommandOperands.inRange (o : CommandOperands) (size : Nat) : Bool :=
  o.inputs.all (fun r => r.inRange size) && o.outputs.all (fun r => r.inRange size)

/-- Some two regions of a list, at different places in it, overlap. -/
def anyOverlap : List Region → Bool
  | [] => false
  | r :: l => l.any (fun q => r.overlaps q) || anyOverlap l

/-- The primary output overlaps an input in a way the in-place exception does not allow (60_exceptions.md R265 (b)). -/
def CommandOperands.primaryClash (o : CommandOperands) : Bool :=
  match o.primaryOut with
  | none => false
  | some r =>
    (r.overlaps o.primaryIn && !(o.inPlace && decide (r.addr = o.primaryIn.addr))) || o.otherIn.any (fun q => r.overlaps q)

/-- The overlap check fails (60_exceptions.md R265). -/
def CommandOperands.clash (o : CommandOperands) : Bool :=
  anyOverlap o.outputs || o.primaryClash || o.otherOut.any (fun r => o.inputs.any (fun q => r.overlaps q))

/-- The checks after IllegalCommand, in the order of 60_exceptions.md R269: the code of the first that fails, or `ok`. -/
def CommandOperands.check (o : CommandOperands) (size : Nat) (keyValid : Bool) : ResultCode :=
  if o.needsKey && !keyValid then .noKey
  else
    match o.lengthError with
    | some e => e
    | none => if !o.inRange size then .rangeError else if o.clash then .overlapError else .ok

/-- The primary input (SRC_ADDR, SRC_LEN). -/
def State.srcRegion (s : State) : Region := ⟨s.opr.srcAddr.toNat, s.opr.srcLen.toNat⟩

/-- The AAD input (AAD_ADDR, AAD_LEN). -/
def State.aadRegion (s : State) : Region := ⟨s.opr.aadAddr.toNat, s.opr.aadLen.toNat⟩

/-- The nonce input (NONCE_ADDR, NONCE_LEN). -/
def State.nonceRegion (s : State) : Region := ⟨s.opr.nonceAddr.toNat, s.opr.nonceLen.toNat⟩

/-- The tag (TAG_ADDR, 16). -/
def State.tagRegion (s : State) : Region := ⟨s.opr.tagAddr.toNat, 16⟩

/-- The primary output (DST_ADDR, n). -/
def State.dstRegion (s : State) (n : Nat) : Region := ⟨s.opr.dstAddr.toNat, n⟩

/-- The length check of KEYEXP (60_exceptions.md R263). -/
def State.keyLengthError (s : State) : Option ResultCode := if s.opr.srcLen = 32#32 then none else some .invalidKeyLength

/-- The length check of ENC and DEC (60_exceptions.md R263). -/
def State.blockLengthError (s : State) : Option ResultCode := if s.opr.srcLen = 16#32 then none else some .invalidBlockLength

/-- The length check of GCM_ENC and GCM_DEC (60_exceptions.md R263). -/
def State.nonceLengthError (s : State) : Option ResultCode :=
  if s.opr.nonceLen = 12#32 then none else some .unsupportedNonceLength

/-- Row KEYEXP of 30_encoding.md R94. -/
def operandsKeyexp (s : State) : CommandOperands :=
  { needsKey := false, lengthError := s.keyLengthError, primaryIn := s.srcRegion, otherIn := [], primaryOut := none,
    otherOut := [], inPlace := false }

/-- Row ENC of 30_encoding.md R94. -/
def operandsEnc (s : State) : CommandOperands :=
  { needsKey := true, lengthError := s.blockLengthError, primaryIn := s.srcRegion, otherIn := [],
    primaryOut := some (s.dstRegion 16), otherOut := [], inPlace := true }

/-- Row DEC of 30_encoding.md R94. -/
def operandsDec (s : State) : CommandOperands :=
  { needsKey := true, lengthError := s.blockLengthError, primaryIn := s.srcRegion, otherIn := [],
    primaryOut := some (s.dstRegion 16), otherOut := [], inPlace := true }

/-- Row GCM_ENC of 30_encoding.md R94: P, A, N in; C, T out. -/
def operandsGcmEnc (s : State) : CommandOperands :=
  { needsKey := true, lengthError := s.nonceLengthError, primaryIn := s.srcRegion,
    otherIn := [s.aadRegion, s.nonceRegion], primaryOut := some (s.dstRegion s.opr.srcLen.toNat),
    otherOut := [s.tagRegion], inPlace := true }

/-- Row GCM_DEC of 30_encoding.md R94: C, A, N, T in; P out. -/
def operandsGcmDec (s : State) : CommandOperands :=
  { needsKey := true, lengthError := s.nonceLengthError, primaryIn := s.srcRegion,
    otherIn := [s.aadRegion, s.nonceRegion, s.tagRegion], primaryOut := some (s.dstRegion s.opr.srcLen.toNat),
    otherOut := [], inPlace := true }

/-- Row GHASH of 30_encoding.md R94: C and A in; S out. -/
def operandsGhash (s : State) : CommandOperands :=
  { needsKey := true, lengthError := none, primaryIn := s.srcRegion, otherIn := [s.aadRegion],
    primaryOut := some (s.dstRegion 16), otherOut := [], inPlace := false }

/-- Row GFMUL8 of 30_encoding.md R94: two bytes in, one out; SRC_LEN is ignored. -/
def operandsGfmul8 (s : State) : CommandOperands :=
  { needsKey := false, lengthError := none, primaryIn := ⟨s.opr.srcAddr.toNat, 2⟩, otherIn := [],
    primaryOut := some (s.dstRegion 1), otherOut := [], inPlace := false }

/-- Row GFMUL128 of 30_encoding.md R94: 32 bytes in, 16 out; SRC_LEN is ignored. -/
def operandsGfmul128 (s : State) : CommandOperands :=
  { needsKey := false, lengthError := none, primaryIn := ⟨s.opr.srcAddr.toNat, 32⟩, otherIn := [],
    primaryOut := some (s.dstRegion 16), otherOut := [], inPlace := false }

/-- The operand table of 30_encoding.md R94. -/
def operandsOf (i : Instr) (s : State) : CommandOperands :=
  match i with
  | .keyexp => operandsKeyexp s
  | .enc => operandsEnc s
  | .dec => operandsDec s
  | .gcmEnc => operandsGcmEnc s
  | .gcmDec => operandsGcmDec s
  | .ghash => operandsGhash s
  | .gfmul8 => operandsGfmul8 s
  | .gfmul128 => operandsGfmul128 s

/-- The checks of a decoded command in a state (60_exceptions.md R269, from NoKey on). -/
def State.checkOperands (s : State) (o : CommandOperands) : ResultCode := o.check s.config.bufSize s.keyValid

/-- One command (30_encoding.md R96): the checks, and where they fail the error and nothing else; else what the command does, and
completion with the code it returns, or the model fault it meets. -/
def State.runCommand (s : State) (o : CommandOperands) (body : Except Fault (State × ResultCode)) :
    Host.Outcome State Fault Refusal :=
  match s.checkOperands o with
  | .ok =>
    match body with
    | .ok (t, c) => .next (t.complete c)
    | .error f => .fault f
  | e => .next (s.raise e)

end Sys2Proof.Machine
end

