-- ==== Sys2Proof/Machine/Field.lean ====
section
/-!
DEFINITION. GF(2⁸) arithmetic and the three ROMs (40_field_and_roms.md), and the command GFMUL8 (R130).
-/

namespace Sys2Proof.Machine

/-- xtime(a) = a • {02} (40_field_and_roms.md R122). -/
def xtime (a : Byte) : Byte := (a <<< 1) ^^^ (if a.getLsbD 7 then 0x1B#8 else 0x00#8)

/-- One iteration of `gmul`, on (p, a), for bit b[k] (40_field_and_roms.md R121). -/
def gmulStep (b : Byte) (pa : Byte × Byte) (k : Nat) : Byte × Byte :=
  (if b.getLsbD k then pa.1 ^^^ pa.2 else pa.1, xtime pa.2)

/-- The product a • b in GF(2⁸): the procedure of 40_field_and_roms.md R121, exactly 8 iterations. -/
def gmul (a b : Byte) : Byte := ((List.range 8).foldl (gmulStep b) (0x00#8, a)).1

/-- The byte of row x[7:4] and column x[3:0] of a 256-byte table written as sixteen rows of sixteen bytes, column 0 leftmost. -/
def romByte (rows : Vector (BitVec 128) 16) (x : Byte) : Byte :=
  (rows[x.toNat / 16]'(by have := x.isLt; omega)).extractLsb' (8 * (15 - x.toNat % 16)) 8

/-- The S-box ROM as the table of 40_field_and_roms.md R125 lays it out, one row a line. -/
def sboxRows : Vector (BitVec 128) 16 := #v[
  0x637c777bf26b6fc53001672bfed7ab76#128,
  0xca82c97dfa5947f0add4a2af9ca472c0#128,
  0xb7fd9326363ff7cc34a5e5f171d83115#128,
  0x04c723c31896059a071280e2eb27b275#128,
  0x09832c1a1b6e5aa0523bd6b329e32f84#128,
  0x53d100ed20fcb15b6acbbe394a4c58cf#128,
  0xd0efaafb434d338545f9027f503c9fa8#128,
  0x51a3408f929d38f5bcb6da2110fff3d2#128,
  0xcd0c13ec5f974417c4a77e3d645d1973#128,
  0x60814fdc222a908846eeb814de5e0bdb#128,
  0xe0323a0a4906245cc2d3ac629195e479#128,
  0xe7c8376d8dd54ea96c56f4ea657aae08#128,
  0xba78252e1ca6b4c6e8dd741f4bbd8b8a#128,
  0x703eb5664803f60e613557b986c11d9e#128,
  0xe1f8981169d98e949b1e87e9ce5528df#128,
  0x8ca1890dbfe6426841992d0fb054bb16#128]

/-- The inverse S-box ROM as the table of 40_field_and_roms.md R126 lays it out, one row a line. -/
def invSboxRows : Vector (BitVec 128) 16 := #v[
  0x52096ad53036a538bf40a39e81f3d7fb#128,
  0x7ce339829b2fff87348e4344c4dee9cb#128,
  0x547b9432a6c2233dee4c950b42fac34e#128,
  0x082ea16628d924b2765ba2496d8bd125#128,
  0x72f8f66486689816d4a45ccc5d65b692#128,
  0x6c704850fdedb9da5e154657a78d9d84#128,
  0x90d8ab008cbcd30af7e45805b8b34506#128,
  0xd02c1e8fca3f0f02c1afbd0301138a6b#128,
  0x3a9111414f67dcea97f2cfcef0b4e673#128,
  0x96ac7422e7ad3585e2f937e81c75df6e#128,
  0x47f11a711d29c5896fb7620eaa18be1b#128,
  0xfc563e4bc6d279209adbc0fe78cd5af4#128,
  0x1fdda8338807c731b11210592780ec5f#128,
  0x60517fa919b54a0d2de57a9f93c99cef#128,
  0xa0e03b4dae2af5b0c8ebbb3c83539961#128,
  0x172b047eba77d626e169146355210c7d#128]

/-- SBOX[x] (40_field_and_roms.md R125). -/
def sbox (x : Byte) : Byte := romByte sboxRows x

/-- INV_SBOX[y] (40_field_and_roms.md R126). -/
def invSbox (y : Byte) : Byte := romByte invSboxRows y

/-- The first bytes of RCON[1] to RCON[31] (40_field_and_roms.md R128). -/
def rconFirstBytes : Bytes := [
  0x01#8, 0x02#8, 0x04#8, 0x08#8, 0x10#8, 0x20#8, 0x40#8, 0x80#8, 0x1b#8, 0x36#8, 0x6c#8, 0xd8#8, 0xab#8, 0x4d#8, 0x9a#8,
  0x2f#8, 0x5e#8, 0xbc#8, 0x63#8, 0xc6#8, 0x97#8, 0x35#8, 0x6a#8, 0xd4#8, 0xb3#8, 0x7d#8, 0xfa#8, 0xef#8, 0xc5#8, 0x91#8,
  0x39#8]

/-- RCON[j], a word (x^(j−1), 00, 00, 00), for 0 ≤ j ≤ 31, RCON[0] being the free value of log 9; none outside the table
(40_field_and_roms.md R128). -/
def rcon (j : Nat) : Option Word :=
  match j with
  | 0 => some Config.rconZero
  | k + 1 =>
    match rconFirstBytes[k]? with
    | some b => some (be32 b 0x00#8 0x00#8 0x00#8)
    | none => none

/-- What GFMUL8 does once its checks have passed (40_field_and_roms.md R130). -/
def bodyGfmul8 (s : State) : Except Fault (State × ResultCode) := do
  let x ← s.memRead s.opr.srcAddr.toNat 2
  return (s.memWrite s.opr.dstAddr.toNat [gmul (x.getD 0 0x00#8) (x.getD 1 0x00#8)], .ok)

/-- GFMUL8 (40_field_and_roms.md R130). -/
def execGfmul8 (s : State) : Host.Outcome State Fault Refusal := s.runCommand (operandsGfmul8 s) (bodyGfmul8 s)

end Sys2Proof.Machine
end

