-- ==== Sys2Proof/Machine/Cipher.lean ====
section
/-!
DEFINITION. The block cipher core (42_cipher.md): the sub-transforms of the 4×4 byte State, Cipher and InvCipher, and the commands
ENC (R182) and DEC (R183).
-/

namespace Sys2Proof.Machine

/-- The cipher's working State: four rows of four bytes (42_cipher.md R170). It lives inside one EngineStep only (10_state.md
R40). -/
abbrev Matrix4 := Vector (Vector Byte 4) 4

/-- The matrix whose entry in row r and column c is `f r c`. -/
def Matrix4.ofFn (f : Fin 4 → Fin 4 → Byte) : Matrix4 := Vector.ofFn fun r => Vector.ofFn fun c => f r c

/-- s[r, c]. -/
def Matrix4.at (s : Matrix4) (r c : Fin 4) : Byte := (s[r])[c]

/-- Load: s[r, c] = in[r + 4c] (42_cipher.md R170). -/
def load (b : Block) : Matrix4 := .ofFn fun r c => b[r.val + 4 * c.val]'(by have := r.isLt; have := c.isLt; omega)

/-- Store: out[r + 4c] = s[r, c] (42_cipher.md R171). -/
def store (s : Matrix4) : Block := Vector.ofFn fun i => s.at ⟨i.val % 4, by omega⟩ ⟨i.val / 4, by have := i.isLt; omega⟩

/-- SubBytes (42_cipher.md R172). -/
def subBytes (s : Matrix4) : Matrix4 := .ofFn fun r c => sbox (s.at r c)

/-- InvSubBytes (42_cipher.md R173). -/
def invSubBytes (s : Matrix4) : Matrix4 := .ofFn fun r c => invSbox (s.at r c)

/-- ShiftRows: s'[r, c] = s[r, (c + r) mod 4] (42_cipher.md R174). -/
def shiftRows (s : Matrix4) : Matrix4 := .ofFn fun r c => s.at r (c + r)

/-- InvShiftRows: s'[r, c] = s[r, (c − r) mod 4] (42_cipher.md R175). -/
def invShiftRows (s : Matrix4) : Matrix4 := .ofFn fun r c => s.at r (c - r)

/-- MixColumns: row r of the matrix is 02 03 01 01 rotated r places to the right, so the entry below row r (cyclically) has
multiplier 03 and the two after it 01 (42_cipher.md R176). -/
def mixColumns (s : Matrix4) : Matrix4 := .ofFn fun r c =>
  gmul 0x02#8 (s.at r c) ^^^ gmul 0x03#8 (s.at (r + 1) c) ^^^ s.at (r + 2) c ^^^ s.at (r + 3) c

/-- InvMixColumns: row r of the matrix is 0e 0b 0d 09 rotated r places to the right (42_cipher.md R177). -/
def invMixColumns (s : Matrix4) : Matrix4 := .ofFn fun r c =>
  gmul 0x0e#8 (s.at r c) ^^^ gmul 0x0b#8 (s.at (r + 1) c) ^^^ gmul 0x0d#8 (s.at (r + 2) c) ^^^ gmul 0x09#8 (s.at (r + 3) c)

/-- AddRoundKey: s'[r, c] = s[r, c] ⊕ byte r of W[4·rnd + c] (42_cipher.md R178). -/
def addRoundKey (w : Schedule) (rnd : Fin 15) (s : Matrix4) : Matrix4 := .ofFn fun r c =>
  s.at r c ^^^ wordByte (w[4 * rnd.val + c.val]'(by have := rnd.isLt; have := c.isLt; omega)) r

/-- One of Cipher's rounds 1 to 13 (42_cipher.md R179). -/
def cipherRound (w : Schedule) (s : Matrix4) (rnd : Fin 15) : Matrix4 := addRoundKey w rnd (mixColumns (shiftRows (subBytes s)))

/-- One of InvCipher's rounds 13 down to 1 (42_cipher.md R180). -/
def invCipherRound (w : Schedule) (s : Matrix4) (rnd : Fin 15) : Matrix4 :=
  invMixColumns (addRoundKey w rnd (invSubBytes (invShiftRows s)))

/-- The round numbers 1 to 13 in rising order. -/
def middleRounds : List (Fin 15) := [1, 2, 3, 4, 5, 6, 7, 8, 9, 10, 11, 12, 13]

/-- Cipher(in, W) (42_cipher.md R179). -/
@[irreducible] def cipher (w : Schedule) (b : Block) : Block :=
  let s := middleRounds.foldl (cipherRound w) (addRoundKey w 0 (load b))
  store (addRoundKey w 14 (shiftRows (subBytes s)))

/-- InvCipher(in, W), with the schedule of Cipher (42_cipher.md R180). -/
@[irreducible] def invCipher (w : Schedule) (b : Block) : Block :=
  let s := middleRounds.reverse.foldl (invCipherRound w) (addRoundKey w 14 (load b))
  store (addRoundKey w 0 (invSubBytes (invShiftRows s)))

/-- What ENC does once its checks have passed (42_cipher.md R182). -/
def bodyEnc (s : State) : Except Fault (State × ResultCode) := do
  let p ← s.memRead s.opr.srcAddr.toNat 16
  return (s.memWrite s.opr.dstAddr.toNat (Block.toBytes (cipher s.sched (Block.ofBytes p))), .ok)

/-- What DEC does once its checks have passed (42_cipher.md R183). -/
def bodyDec (s : State) : Except Fault (State × ResultCode) := do
  let c ← s.memRead s.opr.srcAddr.toNat 16
  return (s.memWrite s.opr.dstAddr.toNat (Block.toBytes (invCipher s.sched (Block.ofBytes c))), .ok)

/-- ENC (42_cipher.md R182). -/
def execEnc (s : State) : Host.Outcome State Fault Refusal := s.runCommand (operandsEnc s) (bodyEnc s)

/-- DEC (42_cipher.md R183). -/
def execDec (s : State) : Host.Outcome State Fault Refusal := s.runCommand (operandsDec s) (bodyDec s)

end Sys2Proof.Machine
end

