-- ==== Sys2Proof/Machine/KeyExpansion.lean ====
section
/-!
DEFINITION. Key expansion (41_key_expansion.md) and the command KEYEXP (R156).
-/

namespace Sys2Proof.Machine

/-- RotWord((a, b, c, d)) = (b, c, d, a) (41_key_expansion.md R151). -/
def rotWord (w : Word) : Word := be32 (wordByte w 1) (wordByte w 2) (wordByte w 3) (wordByte w 0)

/-- SubWord: the S-box on each byte (41_key_expansion.md R152). -/
def subWord (w : Word) : Word := be32 (sbox (wordByte w 0)) (sbox (wordByte w 1)) (sbox (wordByte w 2)) (sbox (wordByte w 3))

/-- Word i of the key, i < 8: W[i] = (K[4i], K[4i+1], K[4i+2], K[4i+3]) (41_key_expansion.md R150). -/
def keyWord (k : Bytes) (i : Nat) : Word :=
  be32 (k.getD (4 * i) 0x00#8) (k.getD (4 * i + 1) 0x00#8) (k.getD (4 * i + 2) 0x00#8) (k.getD (4 * i + 3) 0x00#8)

/-- The word that W[i] adds to W[i−8], from W[i−1]; none where the Rcon index is outside the table (41_key_expansion.md R153,
R154). -/
def expandTemp (i : Nat) (prev : Word) : Option Word :=
  if i % 8 = 0 then
    match rcon (i / 8) with
    | some r => some (subWord (rotWord prev) ^^^ r)
    | none => none
  else if i % 8 = 4 then some (subWord prev)
  else some prev

/-- One pass of the loop of 41_key_expansion.md R153: from W[i−1], …, W[0], newest first, to W[i], …, W[0]. -/
def expandStep (ws : List Word) (i : Nat) : Option (List Word) :=
  match expandTemp i (ws.getD 0 0#32) with
  | some t => some ((ws.getD 7 0#32 ^^^ t) :: ws)
  | none => none

/-- The passes for the indices of a list, in its order. -/
def expandLoop (ws : List Word) : List Nat → Option (List Word)
  | [] => some ws
  | i :: is =>
    match expandStep ws i with
    | some ws' => expandLoop ws' is
    | none => none

/-- Expand(K): W[0..7] from the key, then i = 8 to 59 in increasing order (41_key_expansion.md R153). -/
@[irreducible] def expand (k : Bytes) : Option Schedule :=
  match expandLoop ((List.range 8).map (keyWord k)).reverse (List.range' 8 52) with
  | some ws => some (Vector.ofFn fun i => ws.reverse.getD i.val 0#32)
  | none => none

/-- What KEYEXP does once its checks have passed (41_key_expansion.md R156). An Rcon index outside the table, which cannot happen
(R154), is the model fault InternalInvariant (60_exceptions.md R270). -/
def bodyKeyexp (s : State) : Except Fault (State × ResultCode) := do
  let k ← s.memRead s.opr.srcAddr.toNat 32
  match expand k with
  | some w => return (s.install w (cipher w Block.zero), .ok)
  | none => throw .internalInvariant

/-- KEYEXP (41_key_expansion.md R156). -/
def execKeyexp (s : State) : Host.Outcome State Fault Refusal := s.runCommand (operandsKeyexp s) (bodyKeyexp s)

end Sys2Proof.Machine
end

