-- ==== Sys2Proof/Machine/Gcm.lean ====
section
/-!
DEFINITION. The GCM engine (43_gcm.md): the GF(2¹²⁸) multiplier, GHASH, counter mode and the tag, and the commands GCM_ENC (R227),
GCM_DEC (R229), GHASH (R231) and GFMUL128 (R232).
-/

namespace Sys2Proof.Machine

/-- Coefficient x_i of the field element a block stands for: x_(8k+j) is bit 7 − j of X[k] (43_gcm.md R210), so x₀ is the most
significant bit of the block's big-endian value. -/
def coeff (x : BitVec 128) (i : Nat) : Bool := x.getMsbD i

/-- R = E1 00 … 00 (43_gcm.md R211). -/
def reduction : BitVec 128 := 0xE1000000000000000000000000000000#128

/-- V times α: shifted one place towards x₁₂₇, what leaves the top coming back as R (43_gcm.md R211). -/
def mulAlpha (v : BitVec 128) : BitVec 128 := if coeff v 127 then (v >>> 1) ^^^ reduction else v >>> 1

/-- One iteration of `gfmul128`, on (Z, V), for x_i (43_gcm.md R211). -/
def gfmulStep (x : BitVec 128) (zv : BitVec 128 × BitVec 128) (i : Nat) : BitVec 128 × BitVec 128 :=
  (if coeff x i then zv.1 ^^^ zv.2 else zv.1, mulAlpha zv.2)

/-- The product of two field elements given by their values: exactly 128 iterations (43_gcm.md R211). -/
@[irreducible] def gfmulBits (x y : BitVec 128) : BitVec 128 := ((List.range 128).foldl (gfmulStep x) (0#128, y)).1

/-- X • Y in GF(2¹²⁸) (43_gcm.md R211). -/
def gfmul128 (x y : Block) : Block := bytes16 (gfmulBits (Block.int x) (Block.int y))

/-- The length block L: the bit lengths of A and of C, 64 bits each (43_gcm.md R220). -/
def lengthBlock (a c : Bytes) : Bytes := be64 (8 * a.length) ++ be64 (8 * c.length)

/-- The blocks GHASH takes, in order (43_gcm.md R220). -/
def ghashBlocks (a c : Bytes) : List Bytes := blocks (pad16 a) ++ blocks (pad16 c) ++ [lengthBlock a c]

/-- One block into the accumulator: X <- (X XOR B) • H (43_gcm.md R220). -/
def ghashStep (h : Block) (x : Block) (b : Bytes) : Block := gfmul128 (Block.xor x (Block.ofBytes b)) h

/-- GHASH_H(A, C), the accumulator fresh per call (43_gcm.md R220). -/
@[irreducible] def ghash (h : Block) (a c : Bytes) : Block := (ghashBlocks a c).foldl (ghashStep h) Block.zero

/-- J0 = N ‖ 00 00 00 01 for a 12-byte nonce (43_gcm.md R222). -/
def initialCounter (n : Bytes) : Block := Block.ofBytes (n ++ [0x00#8, 0x00#8, 0x00#8, 0x01#8])

/-- inc32: the last four bytes, as a big-endian word, plus 1 mod 2³²; the first twelve unchanged (43_gcm.md R223). -/
def inc32 (cb : Block) : Block :=
  let low := be32 cb[12] cb[13] cb[14] cb[15] + 1#32
  Block.ofBytes (cb.toList.take 12 ++ wordBytes low)

/-- GCTR from a counter block, which is incremented before each use; a short last piece takes the first keystream bytes
(43_gcm.md R224). -/
def gctrBlocks (w : Schedule) : Block → List Bytes → Bytes
  | _, [] => []
  | cb, x :: xs => xorFirst x (cipher w (inc32 cb)) ++ gctrBlocks w (inc32 cb) xs

/-- GCTR(J0, X) (43_gcm.md R224). -/
@[irreducible] def gctr (w : Schedule) (j0 : Block) (x : Bytes) : Bytes := gctrBlocks w j0 (blocks x)

/-- The tag of a nonce, an AAD and a ciphertext: Cipher(J0, W) XOR GHASH_H(A, C) (43_gcm.md R225, R228). -/
def tagOf (w : Schedule) (h : Block) (n a c : Bytes) : Block := Block.xor (cipher w (initialCounter n)) (ghash h a c)

/-- GCM_AE(N, P, A) = (C, T) (43_gcm.md R225). -/
def gcmAe (w : Schedule) (h : Block) (n p a : Bytes) : Bytes × Block :=
  let c := gctr w (initialCounter n) p
  (c, tagOf w h n a c)

/-- CTEqual(a, b): all sixteen bytes are equal (43_gcm.md R228); its timing is outside the model (R230; log 12). -/
def ctEqual (a b : Block) : Bool := decide (a = b)

/-- GCM_AD(N, C, A, T): none where the tags differ, with no plaintext at all (43_gcm.md R228). -/
def gcmAd (w : Schedule) (h : Block) (n c a : Bytes) (t : Block) : Option Bytes :=
  if ctEqual (tagOf w h n a c) t then some (gctr w (initialCounter n) c) else none

/-- What GCM_ENC does once its checks have passed (43_gcm.md R227). -/
def bodyGcmEnc (s : State) : Except Fault (State × ResultCode) := do
  let p ← s.memRead s.opr.srcAddr.toNat s.opr.srcLen.toNat
  let a ← s.memRead s.opr.aadAddr.toNat s.opr.aadLen.toNat
  let n ← s.memRead s.opr.nonceAddr.toNat 12
  let ct := gcmAe s.sched s.hsub n p a
  return ((s.memWrite s.opr.dstAddr.toNat ct.1).memWrite s.opr.tagAddr.toNat (Block.toBytes ct.2), .ok)

/-- What GCM_DEC does once its checks have passed: the plaintext is written only after the tags have compared equal (43_gcm.md
R229, 60_exceptions.md R268). -/
def bodyGcmDec (s : State) : Except Fault (State × ResultCode) := do
  let c ← s.memRead s.opr.srcAddr.toNat s.opr.srcLen.toNat
  let a ← s.memRead s.opr.aadAddr.toNat s.opr.aadLen.toNat
  let n ← s.memRead s.opr.nonceAddr.toNat 12
  let t ← s.memRead s.opr.tagAddr.toNat 16
  match gcmAd s.sched s.hsub n c a (Block.ofBytes t) with
  | none => return (s, .authenticationFailure)
  | some p => return (s.memWrite s.opr.dstAddr.toNat p, .ok)

/-- What GHASH does once its checks have passed (43_gcm.md R231). -/
def bodyGhash (s : State) : Except Fault (State × ResultCode) := do
  let a ← s.memRead s.opr.aadAddr.toNat s.opr.aadLen.toNat
  let c ← s.memRead s.opr.srcAddr.toNat s.opr.srcLen.toNat
  return (s.memWrite s.opr.dstAddr.toNat (Block.toBytes (ghash s.hsub a c)), .ok)

/-- What GFMUL128 does once its checks have passed: X is the first sixteen bytes, Y the next sixteen (43_gcm.md R232). -/
def bodyGfmul128 (s : State) : Except Fault (State × ResultCode) := do
  let xy ← s.memRead s.opr.srcAddr.toNat 32
  let z := gfmul128 (Block.ofBytes (xy.take 16)) (Block.ofBytes (xy.drop 16))
  return (s.memWrite s.opr.dstAddr.toNat (Block.toBytes z), .ok)

/-- GCM_ENC (43_gcm.md R227). -/
def execGcmEnc (s : State) : Host.Outcome State Fault Refusal := s.runCommand (operandsGcmEnc s) (bodyGcmEnc s)

/-- GCM_DEC (43_gcm.md R229). -/
def execGcmDec (s : State) : Host.Outcome State Fault Refusal := s.runCommand (operandsGcmDec s) (bodyGcmDec s)

/-- GHASH (43_gcm.md R231). -/
def execGhash (s : State) : Host.Outcome State Fault Refusal := s.runCommand (operandsGhash s) (bodyGhash s)

/-- GFMUL128 (43_gcm.md R232). -/
def execGfmul128 (s : State) : Host.Outcome State Fault Refusal := s.runCommand (operandsGfmul128 s) (bodyGfmul128 s)

end Sys2Proof.Machine
end

