-- ==== Sys2Proof/Machine/Dispatch.lean ====
section
/-!
DEFINITION. The dispatch of 30_encoding.md R96: one meaning per command.
-/

namespace Sys2Proof.Machine

def exec (i : Instr) (s : State) : Host.Outcome State Fault Refusal :=
  match i with
  | .keyexp => Sys2Proof.Machine.execKeyexp s
  | .enc => Sys2Proof.Machine.execEnc s
  | .dec => Sys2Proof.Machine.execDec s
  | .gcmEnc => Sys2Proof.Machine.execGcmEnc s
  | .gcmDec => Sys2Proof.Machine.execGcmDec s
  | .ghash => Sys2Proof.Machine.execGhash s
  | .gfmul8 => Sys2Proof.Machine.execGfmul8 s
  | .gfmul128 => Sys2Proof.Machine.execGfmul128 s

end Sys2Proof.Machine
end

