-- ==== Sys2Proof/Machine/Flags.lean ====
section
/-!
DEFINITION. The views of the state that have no storage of their own: STATUS as a word with ERR (10_state.md R24, R37), CTRL (R26),
CAPS (R27), the interrupt output (R39), and the write-1-to-clear of STATUS (R25). These are the only flags the engine has (R37).
-/

namespace Sys2Proof.Machine

/-- The ERRCODE field of a result code (60_exceptions.md R260). -/
def ResultCode.bits (c : ResultCode) : BitVec 4 :=
  match c with
  | .ok => 0#4
  | .invalidKeyLength => 1#4
  | .invalidBlockLength => 2#4
  | .authenticationFailure => 3#4
  | .internalInvariantViolation => 4#4
  | .illegalCommand => 5#4
  | .noKey => 6#4
  | .unsupportedNonceLength => 7#4
  | .rangeError => 8#4
  | .overlapError => 9#4

/-- STATUS.ERR: "always equal to (ERRCODE ≠ 0)" (10_state.md R24, R37). -/
def State.err (s : State) : Bool := s.errcode.bits != 0#4

/-- A one-bit field at bit `n` of a word. -/
def flagAt (n : Nat) (b : Bool) : Word := (BitVec.ofBool b).setWidth 32 <<< n

/-- STATUS as the host reads it: the fields of 10_state.md R24, every other bit 0. -/
def State.status (s : State) : Word :=
  (s.lastop.setWidth 32 <<< 16) ||| (s.errcode.bits.setWidth 32 <<< 8) ||| flagAt 4 s.drop ||| flagAt 3 s.keyValid |||
    flagAt 2 s.err ||| flagAt 1 s.done ||| flagAt 0 s.busy

/-- CTRL as the host reads it: IE in bit 0, the rest 0 (10_state.md R26). -/
def State.ctrl (s : State) : Word := flagAt 0 s.ie

/-- CAPS: BUF_SIZE (10_state.md R27). -/
def State.caps (s : State) : Word := BitVec.ofNat 32 s.config.bufSize

/-- The interrupt output: irq = CTRL.IE ∧ STATUS.DONE (10_state.md R39). -/
def State.irq (s : State) : Bool := s.ie && s.done

/-- A host write of v to STATUS: bits 1 and 4 clear DONE and DROP, every other bit is ignored (10_state.md R25). -/
def State.writeStatus (s : State) (v : Word) : State :=
  { s with done := s.done && !v.getLsbD 1, drop := s.drop && !v.getLsbD 4 }

/-- A host write of v to CTRL: IE is bit 0, the rest is ignored (10_state.md R26). -/
def State.writeCtrl (s : State) (v : Word) : State := { s with ie := v.getLsbD 0 }

end Sys2Proof.Machine
end

