-- ==== Sys2Proof/Machine/HostPort.lean ====
section
/-!
DEFINITION. The host port: address decode (20_memory.md R65), register and buffer accesses (R66 to R69, 10_state.md R23 to R33), and
what they do while a command runs (20_memory.md R71).
-/

namespace Sys2Proof.Machine

/-- The number of bytes of an access. -/
def AccessSize.bytes (z : AccessSize) : Nat :=
  match z with
  | .b1 => 1
  | .b2 => 2
  | .b4 => 4

/-- The size of a value. -/
def HostData.size (d : HostData) : AccessSize :=
  match d with
  | .b1 _ => .b1
  | .b2 _ => .b2
  | .b4 _ => .b4

/-- The bytes of a value, most significant first: BUF[a+k] <- data[8·(size−k)−1 : 8·(size−k−1)] (20_memory.md R68). -/
def HostData.toBytes (d : HostData) : Bytes :=
  match d with
  | .b1 v => [v]
  | .b2 v => [v.extractLsb' 8 8, v.extractLsb' 0 8]
  | .b4 v => wordBytes v

/-- The value of the bytes read, the first byte most significant (20_memory.md R67). -/
def HostData.ofBytes (z : AccessSize) (l : Bytes) : HostData :=
  match z with
  | .b1 => .b1 (l.getD 0 0x00#8)
  | .b2 => .b2 (be16 (l.getD 0 0x00#8) (l.getD 1 0x00#8))
  | .b4 => .b4 (be32 (l.getD 0 0x00#8) (l.getD 1 0x00#8) (l.getD 2 0x00#8) (l.getD 3 0x00#8))

/-- Where an offset lies in the host window (20_memory.md R65). -/
inductive Window where
  /-- The register window, at this offset. -/
  | register (off : Nat)
  /-- The buffer window, at this buffer address. -/
  | buffer (a : Nat)
  /-- Any other offset. -/
  | unmapped
  deriving DecidableEq, Repr

/-- The decode of the host window (20_memory.md R65). -/
def decodeWindow (c : Config) (off : Word) : Window :=
  if off.toNat ≤ 0xFFF then .register off.toNat
  else if 0x10000 ≤ off.toNat ∧ off.toNat < 0x10000 + c.bufSize then .buffer (off.toNat - 0x10000)
  else .unmapped

/-- The registers of the register window (10_state.md R22). -/
inductive RegName where
  | cmd | status | ctrl | caps
  | operand (r : OperandReg)
  | sched (i : Fin 60)
  | hsub (k : Fin 4)
  | reserved
  deriving DecidableEq, Repr

/-- The rows of the register map that name one register each: the twelve words at 0x000 to 0x02C (10_state.md R22). -/
def singleRegister (off : Nat) : RegName :=
  match off with
  | 0x000 => .cmd
  | 0x004 => .status
  | 0x008 => .ctrl
  | 0x00C => .caps
  | 0x010 => .operand .srcAddr
  | 0x014 => .operand .srcLen
  | 0x018 => .operand .dstAddr
  | 0x01C => .operand .aadAddr
  | 0x020 => .operand .aadLen
  | 0x024 => .operand .nonceAddr
  | 0x028 => .operand .nonceLen
  | 0x02C => .operand .tagAddr
  | _ => .reserved

/-- The register at an aligned offset of the register window: the single registers below 0x030, then the SCHED and HSUB ranges of
the map (10_state.md R22). -/
def decodeRegister (off : Nat) : RegName :=
  if off < 0x030 then singleRegister off
  else if h : 0x100 ≤ off ∧ off < 0x1F0 then .sched ⟨(off - 0x100) / 4, by omega⟩
  else if h : 0x1F0 ≤ off ∧ off < 0x200 then .hsub ⟨(off - 0x1F0) / 4, by omega⟩
  else .reserved

/-- HSUB[k] = BE32(H[4k], H[4k+1], H[4k+2], H[4k+3]) (10_state.md R33). -/
def hsubWord (h : Block) (k : Fin 4) : Word :=
  be32 (h[4 * k.val]'(by have := k.isLt; omega)) (h[4 * k.val + 1]'(by have := k.isLt; omega))
    (h[4 * k.val + 2]'(by have := k.isLt; omega)) (h[4 * k.val + 3]'(by have := k.isLt; omega))

/-- A 32-bit read of a register: its value, or none for BUSERR (10_state.md R23 to R33; 20_memory.md R71 (3)). It changes nothing
(20_memory.md R72). -/
def State.readReg (s : State) (r : RegName) : Option Word :=
  match r with
  | .cmd => some 0#32
  | .status => some s.status
  | .ctrl => some s.ctrl
  | .caps => some s.caps
  | .operand r => some (s.opr.get r)
  | .sched i => if s.busy then none else some (if s.config.schedVisible then s.sched[i] else 0#32)
  | .hsub k => if s.busy then none else some (if s.config.schedVisible then hsubWord s.hsub k else 0#32)
  | .reserved => some 0#32

/-- A 32-bit write to a register, always OKAY (10_state.md R23 to R33; 20_memory.md R71 (4), (5)). -/
def State.writeReg (s : State) (r : RegName) (v : Word) : State :=
  match r with
  | .cmd => if s.busy then s.dropWrite else s.accept v
  | .status => s.writeStatus v
  | .ctrl => s.writeCtrl v
  | .caps => s
  | .operand r => if s.busy then s.dropWrite else s.setOperand r v
  | .sched _ => s
  | .hsub _ => s
  | .reserved => s

/-- A register-window access must be 32 bits wide and aligned (20_memory.md R66). -/
def registerAccessOk (off : Nat) (z : AccessSize) : Bool := decide (z = .b4) && decide (off % 4 = 0)

/-- `Read(off, size)` (20_memory.md R64 to R67, R69 to R71). -/
def State.hostRead (s : State) (off : Word) (z : AccessSize) : Except Fault HostResponse :=
  match decodeWindow s.config off with
  | .register o =>
    if registerAccessOk o z then
      match s.readReg (decodeRegister o) with
      | some v => .ok (.okayRead (.b4 v))
      | none => .ok .busErr
    else .ok .busErr
  | .buffer a =>
    if s.busy then .ok .busErr
    else if a % z.bytes = 0 then
      match s.memRead a z.bytes with
      | .ok l => .ok (.okayRead (HostData.ofBytes z l))
      | .error f => .error f
    else .ok .busErr
  | .unmapped => .ok .busErr

/-- `Write(off, size, data)` (20_memory.md R64 to R66, R68 to R71). While BUSY every buffer-window write sets DROP, a misaligned
one included (log 7); a malformed register access has no effect at all (log 8). -/
def State.hostWrite (s : State) (off : Word) (d : HostData) : State × HostResponse :=
  match decodeWindow s.config off with
  | .register o =>
    match d with
    | .b4 v => if o % 4 = 0 then (s.writeReg (decodeRegister o) v, .okayWrite) else (s, .busErr)
    | .b1 _ => (s, .busErr)
    | .b2 _ => (s, .busErr)
  | .buffer a =>
    if s.busy then (s.dropWrite, .busErr)
    else if a % d.size.bytes = 0 then (s.memWrite a d.toBytes, .okayWrite)
    else (s, .busErr)
  | .unmapped => (s, .busErr)

/-- `HostStep(tx)` (00_scope.md R11 (1)): the transaction's effect, and its response to the host. -/
def hostStep (tx : HostTx) (s : State) : Host.Outcome State Fault Refusal :=
  match tx with
  | .read off z =>
    match s.hostRead off z with
    | .ok r => .next (s.respond r)
    | .error f => .fault f
  | .write off d => .next ((s.hostWrite off d).1.respond (s.hostWrite off d).2)

/-- The offset of a host bus address, where it lies in the engine's 32-bit window at ENGINE_BASE (00_scope.md R9, 20_memory.md
R60). -/
def offsetOfBus (c : Config) (addr : Nat) : Option Word :=
  if c.engineBase ≤ addr ∧ addr < c.engineBase + 2 ^ 32 then some (BitVec.ofNat 32 (addr - c.engineBase)) else none

end Sys2Proof.Machine
end

