-- ==== Sys2Proof/Machine/Engine.lean ====
section
/-!
DEFINITION. The steps of 00_scope.md R11: EngineStep on the latched command (30_encoding.md R96), and what an event of the script
does.
-/

namespace Sys2Proof.Machine

/-- `Check(cmd)`: the code of the first check that fails, or `ok` (60_exceptions.md R269). -/
def State.check (s : State) (cmd : Word) : ResultCode :=
  match decode cmd with
  | .error _ => .illegalCommand
  | .ok i => s.checkOperands (operandsOf i s)

/-- EngineStep: the latched word is decoded and run; a word that is no command ends with IllegalCommand (30_encoding.md R92, R96;
60_exceptions.md R261). -/
def engineStep (s : State) : Host.Outcome State Fault Refusal :=
  match decode s.latch with
  | .ok i => exec i s
  | .error _ => .next (s.raise .illegalCommand)

/-- The engine's turn: EngineStep is enabled exactly when BUSY = 1 (00_scope.md R11 (2)); an idle engine does nothing (log 2). -/
def engineTurn (s : State) : Host.Outcome State Fault Refusal := if s.busy then engineStep s else .next s

/-- What an event does (00_scope.md R11). -/
def runEvent (e : Event) (s : State) : Host.Outcome State Fault Refusal :=
  match e with
  | .host tx => hostStep tx s
  | .engine => engineTurn s
  | .reset => .next s.resetEngine

/-- The state once the next event has been taken off the script. -/
def State.takeEvent (s : State) : State := { s with script := s.script.tail }

/-- A command word accepted with the engine's turn next, so that the very next step is its EngineStep (log 10). -/
def State.present (s : State) (w : Word) : State :=
  { s.accept w with
    script := match s.script with
      | [] => []
      | e :: l => .engine :: e :: l }

end Sys2Proof.Machine
end

