-- ==== Sys2Proof/Machine/Step.lean ====
section
/-!
DEFINITION. One step of the machine (00_scope.md R11): the next event of the script, or the engine's turn where the script is
exhausted (R12; log 2).
-/

namespace Sys2Proof.Machine

/-- One step (00_scope.md R11, R12). -/
def step (s : State) : Host.Outcome State Fault Refusal :=
  match s.script with
  | [] => engineTurn s
  | e :: _ => runEvent e s.takeEvent

/-- The spec's bookkeeping of a model fault (20_memory.md R73): where the step answers a fault, the event is used up and the fault
is appended to the fault record (log 5). -/
def recordingStep (s : State) : State :=
  match step s with
  | .next t => t
  | .fault f => s.takeEvent.recordFault f
  | .refused _ => s

/-- `s` with a command word placed where the next step takes its command from: accepted into LATCH with BUSY = 1 and the engine's
turn next (10_state.md R21, R23; log 10). -/
def State.withFetchWord (s : State) (nbits w : Nat) : State := s.present (BitVec.ofNat 32 (w % 2 ^ nbits))

end Sys2Proof.Machine
end

