-- ==== Sys2Proof/Machine/HostScript.lean ====
section
/-!
DEFINITION. Host scripts: the transactions of 30_encoding.md R97 and the pseudo-instructions of R98, as events.
-/

namespace Sys2Proof.Machine

/-- The offset of a register (10_state.md R22; 30_encoding.md R97). -/
def RegName.offset (r : RegName) : Option Word :=
  match r with
  | .cmd => some 0x000#32
  | .status => some 0x004#32
  | .ctrl => some 0x008#32
  | .caps => some 0x00C#32
  | .operand .srcAddr => some 0x010#32
  | .operand .srcLen => some 0x014#32
  | .operand .dstAddr => some 0x018#32
  | .operand .aadAddr => some 0x01C#32
  | .operand .aadLen => some 0x020#32
  | .operand .nonceAddr => some 0x024#32
  | .operand .nonceLen => some 0x028#32
  | .operand .tagAddr => some 0x02C#32
  | .sched i => some (BitVec.ofNat 32 (0x100 + 4 * i.val))
  | .hsub k => some (BitVec.ofNat 32 (0x1F0 + 4 * k.val))
  | .reserved => none

/-- `BUF+a` = 0x0001_0000 + a (30_encoding.md R97). -/
def bufOffset (a : Nat) : Word := BitVec.ofNat 32 (0x10000 + a)

/-- `wr32 OFF, V` (30_encoding.md R97). -/
def wr32 (off v : Word) : Event := .host (.write off (.b4 v))

/-- `wr16 OFF, V` (30_encoding.md R97). -/
def wr16 (off : Word) (v : BitVec 16) : Event := .host (.write off (.b2 v))

/-- `wr8 OFF, V` (30_encoding.md R97). -/
def wr8 (off : Word) (v : Byte) : Event := .host (.write off (.b1 v))

/-- `rd32 OFF` (30_encoding.md R97). -/
def rd32 (off : Word) : Event := .host (.read off .b4)

/-- `rd16 OFF` (30_encoding.md R97). -/
def rd16 (off : Word) : Event := .host (.read off .b2)

/-- `rd8 OFF` (30_encoding.md R97). -/
def rd8 (off : Word) : Event := .host (.read off .b1)

/-- `set REG, V` = `wr32 REG, V`; a reserved name has no offset and gives no transaction (30_encoding.md R98). -/
def setReg (r : RegName) (v : Word) : List Event :=
  match r.offset with
  | some off => [wr32 off v]
  | none => []

/-- `cmd MNEMONIC` = `wr32 CMD, word` (30_encoding.md R98). -/
def cmd (i : Instr) : Event := wr32 0x000#32 (encode i)

/-- `wait`: `polls` reads of STATUS that still find the command running, the engine's turn, and the final read that finds BUSY = 0
(30_encoding.md R98; log 14). -/
def wait (polls : Nat) : List Event := List.replicate polls (rd32 0x004#32) ++ [.engine, rd32 0x004#32]

/-- `run MNEMONIC` = `cmd MNEMONIC` then `wait` (30_encoding.md R98). -/
def runCmd (i : Instr) (polls : Nat) : List Event := cmd i :: wait polls

/-- `bufw a, bytes` after the first argument's bound on the number of transactions: single bytes up to a multiple of 4, then whole
words, then the rest as single bytes (30_encoding.md R98). -/
def bufwFuel : Nat → Nat → Bytes → List Event
  | 0, _, _ => []
  | _ + 1, _, [] => []
  | n + 1, a, b0 :: b1 :: b2 :: b3 :: l =>
    if a % 4 = 0 then wr32 (bufOffset a) (be32 b0 b1 b2 b3) :: bufwFuel n (a + 4) l
    else wr8 (bufOffset a) b0 :: bufwFuel n (a + 1) (b1 :: b2 :: b3 :: l)
  | n + 1, a, b :: l => wr8 (bufOffset a) b :: bufwFuel n (a + 1) l

/-- `bufw a, bytes` (30_encoding.md R98). -/
def bufw (a : Nat) (l : Bytes) : List Event := bufwFuel l.length a l

/-- `bufr a, n` after the first argument's bound, with the cutting of `bufw` (30_encoding.md R98). -/
def bufrFuel : Nat → Nat → Nat → List Event
  | 0, _, _ => []
  | f + 1, a, n =>
    if n = 0 then []
    else if a % 4 = 0 ∧ 4 ≤ n then rd32 (bufOffset a) :: bufrFuel f (a + 4) (n - 4)
    else rd8 (bufOffset a) :: bufrFuel f (a + 1) (n - 1)

/-- `bufr a, n` (30_encoding.md R98). -/
def bufr (a n : Nat) : List Event := bufrFuel n a n

end Sys2Proof.Machine
end

