-- ==== Sys2Proof/Safety.lean ====
section
/-!
DEFINITION. What counts as a good state of the engine, in the terms the statements use: the invariants every step keeps, and when a
run is over (00_scope.md R13).
-/

namespace Sys2Proof.Machine

/-- The buffer is in canonical form and every defined byte lies in BUF (20_memory.md R60, 10_state.md R42). -/
def State.bufOk (s : State) : Prop := Memory.wf s.buf ∧ ∀ c ∈ s.buf, c.1 < s.config.bufSize

/-- While a command runs, DONE and ERRCODE are 0 (10_state.md R23, R24). -/
def State.runningOk (s : State) : Prop := s.busy = true → s.done = false ∧ s.errcode = .ok

/-- LASTOP shows bits 7:0 of LATCH (10_state.md R35). -/
def State.lastopOk (s : State) : Prop := s.lastop = s.latch.setWidth 8

/-- ERRCODE is never the reserved code 4 (60_exceptions.md R270). -/
def State.errcodeOk (s : State) : Prop := s.errcode ≠ .internalInvariantViolation

/-- Where KEY_VALID is 1, W is the schedule of some 32-byte key and H is Cipher(0¹²⁸) under W; where it is 0, both are still zero
(10_state.md R30, R32, R34; 41_key_expansion.md R157). -/
def State.instanceOk (s : State) : Prop :=
  (s.keyValid = true → ∃ k : Bytes, k.length = 32 ∧ expand k = some s.sched ∧ s.hsub = cipher s.sched Block.zero) ∧
    (s.keyValid = false → s.sched = Vector.replicate 60 0#32 ∧ s.hsub = Vector.replicate 16 0#8)

/-- The invariant of the machine. -/
structure State.Inv (s : State) : Prop where
  buf : s.bufOk
  running : s.runningOk
  lastop : s.lastopOk
  errcode : s.errcodeOk
  inst : s.instanceOk

/-- A run is over: nothing is left to do, BUSY is 0, and no model fault has been recorded (00_scope.md R13). -/
def State.final (s : State) : Prop := s.script = [] ∧ s.busy = false ∧ s.faults = []

/-! ### The terms of the statements -/

/-- The buffer holds the bytes of `v`, all defined, from address `a` on. -/
def State.holds (s : State) (a : Nat) (v : Bytes) : Prop := ∀ k (h : k < v.length), Memory.read s.buf (a + k) = some v[k]

/-- The region (a, n) is in range: n = 0, or a + n ≤ BUF_SIZE (20_memory.md R61). -/
def State.fits (s : State) (a n : Nat) : Prop := n = 0 ∨ a + n ≤ s.config.bufSize

/-- The byte at `x` belongs to the region (a, n) (20_memory.md R61). -/
def inRegion (r : Nat × Nat) (x : Nat) : Prop := r.1 ≤ x ∧ x < r.1 + r.2

/-- Two regions share no byte (20_memory.md R61). -/
def apart (r q : Nat × Nat) : Prop := ∀ x, ¬ (inRegion r x ∧ inRegion q x)

/-- Every byte outside the listed regions reads in `t` as it read in `s`. -/
def State.sameOutside (s t : State) (rs : List (Nat × Nat)) : Prop :=
  ∀ x, (∀ r ∈ rs, ¬ inRegion r x) → Memory.read t.buf x = Memory.read s.buf x

/-- The state of a command that has ended with a code and has written nothing else (10_state.md R36 (2) to (5)). -/
def State.ended (s : State) (c : ResultCode) : State := { s with errcode := c, done := true, busy := false }

/-- The input regions of a command, as pairs (address, length) of register values (30_encoding.md R94). -/
def tableInputs (i : Instr) (o : OperandRegs) : List (Nat × Nat) :=
  match i with
  | .keyexp => [(o.srcAddr.toNat, o.srcLen.toNat)]
  | .enc => [(o.srcAddr.toNat, o.srcLen.toNat)]
  | .dec => [(o.srcAddr.toNat, o.srcLen.toNat)]
  | .gcmEnc => [(o.srcAddr.toNat, o.srcLen.toNat), (o.aadAddr.toNat, o.aadLen.toNat), (o.nonceAddr.toNat, o.nonceLen.toNat)]
  | .gcmDec =>
    [(o.srcAddr.toNat, o.srcLen.toNat), (o.aadAddr.toNat, o.aadLen.toNat), (o.nonceAddr.toNat, o.nonceLen.toNat),
      (o.tagAddr.toNat, 16)]
  | .ghash => [(o.aadAddr.toNat, o.aadLen.toNat), (o.srcAddr.toNat, o.srcLen.toNat)]
  | .gfmul8 => [(o.srcAddr.toNat, 2)]
  | .gfmul128 => [(o.srcAddr.toNat, 32)]

/-- The output regions of a command (30_encoding.md R94). -/
def tableOutputs (i : Instr) (o : OperandRegs) : List (Nat × Nat) :=
  match i with
  | .keyexp => []
  | .enc => [(o.dstAddr.toNat, 16)]
  | .dec => [(o.dstAddr.toNat, 16)]
  | .gcmEnc => [(o.dstAddr.toNat, o.srcLen.toNat), (o.tagAddr.toNat, 16)]
  | .gcmDec => [(o.dstAddr.toNat, o.srcLen.toNat)]
  | .ghash => [(o.dstAddr.toNat, 16)]
  | .gfmul8 => [(o.dstAddr.toNat, 1)]
  | .gfmul128 => [(o.dstAddr.toNat, 16)]

/-- The commands that need the key (30_encoding.md R94, 60_exceptions.md R262). -/
def tableNeedsKey (i : Instr) : Prop := i = .enc ∨ i = .dec ∨ i = .gcmEnc ∨ i = .gcmDec ∨ i = .ghash

/-- The length check of a command passes (60_exceptions.md R263). -/
def tableLengthOk (i : Instr) (o : OperandRegs) : Prop :=
  (i = .keyexp → o.srcLen = 32#32) ∧ (i = .enc ∨ i = .dec → o.srcLen = 16#32) ∧
    (i = .gcmEnc ∨ i = .gcmDec → o.nonceLen = 12#32)

/-- The overlap rule of 60_exceptions.md R265, command by command: outputs share no byte with each other or with an input, except
that the primary output of ENC, DEC, GCM_ENC and GCM_DEC may start exactly where the primary input does. -/
def tableNoClash (i : Instr) (o : OperandRegs) : Prop :=
  let src := (o.srcAddr.toNat, o.srcLen.toNat)
  let aad := (o.aadAddr.toNat, o.aadLen.toNat)
  let nonce := (o.nonceAddr.toNat, o.nonceLen.toNat)
  let tag := (o.tagAddr.toNat, 16)
  let dst := fun n : Nat => (o.dstAddr.toNat, n)
  match i with
  | .keyexp => True
  | .enc => apart (dst 16) src ∨ o.dstAddr = o.srcAddr
  | .dec => apart (dst 16) src ∨ o.dstAddr = o.srcAddr
  | .gcmEnc =>
    (apart (dst o.srcLen.toNat) src ∨ o.dstAddr = o.srcAddr) ∧ apart (dst o.srcLen.toNat) aad ∧
      apart (dst o.srcLen.toNat) nonce ∧ apart tag src ∧ apart tag aad ∧ apart tag nonce ∧ apart (dst o.srcLen.toNat) tag
  | .gcmDec =>
    (apart (dst o.srcLen.toNat) src ∨ o.dstAddr = o.srcAddr) ∧ apart (dst o.srcLen.toNat) aad ∧
      apart (dst o.srcLen.toNat) nonce ∧ apart (dst o.srcLen.toNat) tag
  | .ghash => apart (dst 16) aad ∧ apart (dst 16) src
  | .gfmul8 => apart (dst 1) (o.srcAddr.toNat, 2)
  | .gfmul128 => apart (dst 16) (o.srcAddr.toNat, 32)

/-- What a command needs to do its work (60_exceptions.md R269, 70_reset_and_hazards.md R294), the input bytes apart. -/
def State.admits (s : State) (i : Instr) : Prop :=
  (tableNeedsKey i → s.keyValid = true) ∧ tableLengthOk i s.opr ∧
    (∀ r ∈ tableInputs i s.opr ++ tableOutputs i s.opr, s.fits r.1 r.2) ∧ tableNoClash i s.opr

/-- The value of host data as a number (20_memory.md R64). -/
def HostData.toNat (d : HostData) : Nat :=
  match d with
  | .b1 v => v.toNat
  | .b2 v => v.toNat
  | .b4 v => v.toNat

/-- Byte k of an n-byte value, k = 0 the most significant: bits 8·(n−k)−1 : 8·(n−k−1) (20_memory.md R68). -/
def byteOfValue (n v k : Nat) : Byte := BitVec.ofNat 8 (v / 2 ^ (8 * (n - k - 1)))

/-- The offset of an operand register (10_state.md R22). -/
def operandOffset (r : OperandReg) : Word :=
  match r with
  | .srcAddr => 0x010#32
  | .srcLen => 0x014#32
  | .dstAddr => 0x018#32
  | .aadAddr => 0x01C#32
  | .aadLen => 0x020#32
  | .nonceAddr => 0x024#32
  | .nonceLen => 0x028#32
  | .tagAddr => 0x02C#32

/-- The next step is the engine's turn: it is scripted, or the script is exhausted (00_scope.md R11, R12). -/
def State.engineNext (s : State) : Prop := s.script = [] ∨ s.script.head? = some .engine

/-- The polynomial product of two bytes, not reduced: bit n is the sum over i + j = n of a_i·b_j (40_field_and_roms.md R120,
R121). -/
def polyProduct (a b : Byte) : BitVec 16 :=
  (List.range 8).foldl (fun acc k => acc ^^^ (if b.getLsbD k then a.setWidth 16 <<< k else 0#16)) 0#16

/-- The remainder of a polynomial of degree below 16 modulo x⁸ + x⁴ + x³ + x + 1 = 0x11B, by long division from the top
(40_field_and_roms.md R121). -/
def polyMod (p : BitVec 16) : Byte :=
  ((List.range 8).foldl (fun (acc : BitVec 16) k => if acc.getLsbD (15 - k) then acc ^^^ (0x11B#16 <<< (7 - k)) else acc)
    p).setWidth 8

/-- The affine map of the S-box: bit i is b_i ⊕ b_(i+4) ⊕ b_(i+5) ⊕ b_(i+6) ⊕ b_(i+7) ⊕ c_i, indices mod 8, c = 0x63
(40_field_and_roms.md R125). -/
def sboxAffine (b : Byte) : Byte :=
  b ^^^ b.rotateLeft 1 ^^^ b.rotateLeft 2 ^^^ b.rotateLeft 3 ^^^ b.rotateLeft 4 ^^^ 0x63#8

/-- {02} multiplied by itself n times (40_field_and_roms.md R128). -/
def twoPower : Nat → Byte
  | 0 => 0x01#8
  | n + 1 => gmul 0x02#8 (twoPower n)

/-- The value of a byte string as a number, its first byte most significant (00_scope.md R14). -/
def bigEndian (l : Bytes) : Nat := l.foldl (fun n b => 256 * n + b.toNat) 0

/-- The block of α^i, i < 128: coefficient x_i alone is 1 (43_gcm.md R210). -/
def alphaPower (i : Nat) : Block := Vector.ofFn fun k => if k.val = i / 8 then 0x80#8 >>> (i % 8) else 0x00#8

/-- inc32 applied n times. -/
def incTimes : Nat → Block → Block
  | 0, cb => cb
  | n + 1, cb => inc32 (incTimes n cb)

end Sys2Proof.Machine
end

