-- ==== Sys2Proof/Certificates/Slice0/Obligations.lean ====
section
/-!
DEFINITION. The statements for the provers, from the numbered rules of spec/, file by file. Each holds for every choice of the
implementation parameters, which are part of the state.
-/

open Sys2Proof Sys2Proof.Machine

/-! ### Encoding (30_encoding.md) -/

/-- R91, R92: a word decodes to a command exactly when it is that command's word of the opcode map, and it is refused exactly when
RSVD ≠ 0 or OP is 0x00 or 0x09 to 0xFF. -/
def Obligations.DecodeInvertsEncode : Prop :=
  ∀ (w : Word),
    (∀ i : Instr, decode w = .ok i ↔ w = encode i) ∧
      ((∃ e, decode w = .error e) ↔ w.extractLsb' 8 24 ≠ 0#24 ∨ w.extractLsb' 0 8 = 0x00#8 ∨ 9 ≤ (w.extractLsb' 0 8).toNat)

/-- R91: words of the opcode map, written out, and words of R92 beside them. -/
def Obligations.OpcodeMapWords : Prop :=
  decode 0x00000001#32 = .ok .keyexp ∧ decode 0x00000002#32 = .ok .enc ∧ decode 0x00000003#32 = .ok .dec ∧
    decode 0x00000004#32 = .ok .gcmEnc ∧ decode 0x00000005#32 = .ok .gcmDec ∧ decode 0x00000006#32 = .ok .ghash ∧
    decode 0x00000007#32 = .ok .gfmul8 ∧ decode 0x00000008#32 = .ok .gfmul128 ∧
    decode 0x00000000#32 = .error .unassignedOp ∧ decode 0x00000009#32 = .error .unassignedOp ∧
    decode 0x00000101#32 = .error .reservedNotZero ∧ decode 0x80000002#32 = .error .reservedNotZero

/-- R96, R11 (2): with BUSY = 1 and the engine's turn next, a step is `exec` of the command LATCH holds; with BUSY = 0 EngineStep
is not enabled and the engine's turn changes nothing. What the step adds is the script: a scripted turn is used up, and with the
script exhausted the turn is taken all the same. That an exhausted script gives the engine its turn, and that an idle turn counts as
a step, are the model's choice (log 2). -/
def Obligations.StepRunsLatchedCommand : Prop :=
  (∀ (s : State) (i : Instr), s.busy = true → decode s.latch = .ok i →
    (s.script = [] → step s = exec i s) ∧
      (∀ rest, s.script = .engine :: rest → step s = exec i { s with script := rest })) ∧
  ∀ s : State, s.busy = false →
    (s.script = [] → step s = .next s) ∧ (∀ rest, s.script = .engine :: rest → step s = .next { s with script := rest })

/-- R92, R261, R36: a latched word that is no command ends with IllegalCommand (code 5) and has no other effect. That an exhausted
script gives the engine its turn at once is the model's choice (log 2). -/
def Obligations.IllegalWordEndsWithCode5 : Prop :=
  ∀ (s : State), s.busy = true →
    (s.latch.extractLsb' 8 24 ≠ 0#24 ∨ s.latch.extractLsb' 0 8 = 0x00#8 ∨ 9 ≤ (s.latch.extractLsb' 0 8).toNat) →
    (s.script = [] → step s = .next (s.ended .illegalCommand)) ∧
      (∀ rest, s.script = .engine :: rest → step s = .next (State.ended { s with script := rest } .illegalCommand))

/-! ### The checks (60_exceptions.md) -/

/-- R269 with R94: the checks of a command all pass exactly when the key is there if needed, the length is right, every region is in
range and no forbidden overlap is there. -/
def Obligations.ChecksPassWhenAdmitted : Prop :=
  ∀ (s : State) (i : Instr), s.check (encode i) = .ok ↔ s.admits i

/-- R262: ENC, DEC, GCM_ENC, GCM_DEC and GHASH with KEY_VALID = 0 end with NoKey (code 6), whatever their lengths and regions, and
change nothing else; KEYEXP, GFMUL8 and GFMUL128 never end with it. -/
def Obligations.NoKeyEndsWithCode6 : Prop :=
  ∀ (s : State) (i : Instr),
    ((i = .enc ∨ i = .dec ∨ i = .gcmEnc ∨ i = .gcmDec ∨ i = .ghash) → s.keyValid = false → exec i s = .next (s.ended .noKey)) ∧
      ∀ t : State, (i = .keyexp ∨ i = .gfmul8 ∨ i = .gfmul128) → exec i s = .next t → t.errcode ≠ .noKey

/-- R263: the three length checks, each before any check of ranges and overlaps; the other commands never end with a length
code. -/
def Obligations.WrongLengthEndsWithItsCode : Prop :=
  ∀ (s : State),
    (s.opr.srcLen ≠ 32#32 → exec .keyexp s = .next (s.ended .invalidKeyLength)) ∧
      (s.keyValid = true → s.opr.srcLen ≠ 16#32 →
        exec .enc s = .next (s.ended .invalidBlockLength) ∧ exec .dec s = .next (s.ended .invalidBlockLength)) ∧
      (s.keyValid = true → s.opr.nonceLen ≠ 12#32 →
        exec .gcmEnc s = .next (s.ended .unsupportedNonceLength) ∧ exec .gcmDec s = .next (s.ended .unsupportedNonceLength)) ∧
      ∀ (i : Instr) (t : State), (i = .ghash ∨ i = .gfmul8 ∨ i = .gfmul128) → exec i s = .next t →
        t.errcode ≠ .invalidKeyLength ∧ t.errcode ≠ .invalidBlockLength ∧ t.errcode ≠ .unsupportedNonceLength

/-- R264, R265, R269: where key and length pass, a command with some region out of range ends with RangeError (code 8), whatever
overlaps there are, and one whose regions are all in range but break the overlap rule ends with OverlapError (code 9). -/
def Obligations.BadRegionsEndWithTheirCodes : Prop :=
  ∀ (s : State) (i : Instr), (tableNeedsKey i → s.keyValid = true) → tableLengthOk i s.opr →
    ((∃ r ∈ tableInputs i s.opr ++ tableOutputs i s.opr, ¬ s.fits r.1 r.2) → exec i s = .next (s.ended .rangeError)) ∧
      ((∀ r ∈ tableInputs i s.opr ++ tableOutputs i s.opr, s.fits r.1 r.2) → ¬ tableNoClash i s.opr →
        exec i s = .next (s.ended .overlapError))

/-- R267: a command whose code is not 0 leaves everything but STATUS's ERRCODE, ERR, DONE and BUSY as it was: BUF and its marks, W,
H, KEY_VALID, CTRL, LATCH, the operand registers. -/
def Obligations.FailedCommandChangesOnlyStatus : Prop :=
  ∀ (s t : State) (i : Instr), exec i s = .next t → t.errcode ≠ .ok → t = s.ended t.errcode

/-- R36, R81, R94: what every command leaves as it was, failed or not, and what completion sets. Only KEYEXP writes W, H and
KEY_VALID; no command writes an operand register, CTRL, LATCH, LASTOP or DROP. -/
def Obligations.CommandFrame : Prop :=
  ∀ (s t : State) (i : Instr), exec i s = .next t →
    t.busy = false ∧ t.done = true ∧ t.opr = s.opr ∧ t.ie = s.ie ∧ t.latch = s.latch ∧ t.lastop = s.lastop ∧ t.drop = s.drop ∧
      t.config = s.config ∧ t.faults = s.faults ∧ t.script = s.script ∧ t.responses = s.responses ∧
      (i ≠ .keyexp → t.sched = s.sched ∧ t.hsub = s.hsub ∧ t.keyValid = s.keyValid)

/-- R63: a command writes no buffer byte outside its output regions. -/
def Obligations.CommandWritesOnlyItsOutputs : Prop :=
  ∀ (s t : State) (i : Instr), exec i s = .next t → s.sameOutside t (tableOutputs i s.opr)

/-- R62, R73, R270: a command faults only with UninitRead of an undefined byte of one of its input regions, and only after every
check has passed. It never meets InternalInvariant. -/
def Obligations.CommandFaultsOnlyOnUndefinedInput : Prop :=
  ∀ (s : State) (i : Instr) (f : Fault), exec i s = .fault f →
    s.admits i ∧ ∃ x, f = .uninitRead x ∧ Memory.read s.buf x = none ∧ ∃ r ∈ tableInputs i s.opr, inRegion r x

/-- R62: a command whose checks pass and that has an undefined input byte faults with UninitRead of an undefined input byte. -/
def Obligations.UndefinedInputFaults : Prop :=
  ∀ (s : State) (i : Instr), s.admits i → (∃ r ∈ tableInputs i s.opr, ∃ x, inRegion r x ∧ Memory.read s.buf x = none) →
    ∃ x, exec i s = .fault (.uninitRead x) ∧ Memory.read s.buf x = none ∧ ∃ r ∈ tableInputs i s.opr, inRegion r x

/-! ### GF(2⁸) and the ROMs (40_field_and_roms.md) -/

/-- R121: the multiplier's result is the polynomial product modulo x⁸ + x⁴ + x³ + x + 1. -/
def Obligations.GmulIsPolynomialProduct : Prop := ∀ (a b : Byte), gmul a b = polyMod (polyProduct a b)

/-- R123: commutative, associative, distributive over ⊕, zero and one, and one inverse for each nonzero byte. -/
def Obligations.GmulFieldLaws : Prop :=
  (∀ a b : Byte, gmul a b = gmul b a) ∧ (∀ a b c : Byte, gmul (gmul a b) c = gmul a (gmul b c)) ∧
    (∀ a b c : Byte, gmul a (b ^^^ c) = gmul a b ^^^ gmul a c) ∧ (∀ a : Byte, gmul 0x00#8 a = 0x00#8) ∧
    (∀ a : Byte, gmul 0x01#8 a = a) ∧ ∀ a : Byte, a ≠ 0x00#8 → ∃! b : Byte, gmul a b = 0x01#8

/-- R127: each table undoes the other, and SBOX has no fixed point and no opposite fixed point. -/
def Obligations.SboxTablesAreInverse : Prop :=
  ∀ x : Byte, invSbox (sbox x) = x ∧ sbox (invSbox x) = x ∧ sbox x ≠ x ∧ sbox x ≠ x ^^^ 0xFF#8

/-- R125: SBOX[x] is the affine map of the field inverse of x, the inverse of 0 taken as 0. -/
def Obligations.SboxIsAffineOfInverse : Prop :=
  sbox 0x00#8 = sboxAffine 0x00#8 ∧ ∀ x y : Byte, gmul x y = 0x01#8 → sbox x = sboxAffine y

/-- R130: GFMUL8 on admitted regions with defined inputs writes the product to its one output byte and changes nothing else. -/
def Obligations.Gfmul8WritesProduct : Prop :=
  ∀ (s : State) (a b : Byte), s.admits .gfmul8 → s.holds s.opr.srcAddr.toNat [a, b] →
    ∃ t, exec .gfmul8 s = .next t ∧ t.holds s.opr.dstAddr.toNat [gmul a b] ∧ s.sameOutside t [(s.opr.dstAddr.toNat, 1)] ∧
      t = { s.ended .ok with buf := t.buf }

/-! ### Key expansion (41_key_expansion.md) -/

/-- R150 to R154: a word made of four bytes has the first one most significant, RotWord puts it last, and SubWord takes each byte
through SBOX; with them the recurrence that Expand's words obey, for every 32-byte key. No Rcon index is outside the table. -/
def Obligations.ExpandObeysRecurrence : Prop :=
  (∀ a b c d : Byte,
    (be32 a b c d).toNat = bigEndian [a, b, c, d] ∧ rotWord (be32 a b c d) = be32 b c d a ∧
      subWord (be32 a b c d) = be32 (sbox a) (sbox b) (sbox c) (sbox d)) ∧
  ∀ k : Bytes, k.length = 32 →
    ∃ w : Schedule, expand k = some w ∧
      (∀ i (h : i < 8), w[i] = be32 (k.getD (4 * i) 0#8) (k.getD (4 * i + 1) 0#8) (k.getD (4 * i + 2) 0#8)
        (k.getD (4 * i + 3) 0#8)) ∧
      ∀ i (h : i < 60), 8 ≤ i →
        w[i] = w[i - 8] ^^^
          (if i % 8 = 0 then subWord (rotWord w[i - 1]) ^^^ be32 (twoPower (i / 8 - 1)) 0#8 0#8 0#8
          else if i % 8 = 4 then subWord w[i - 1] else w[i - 1])

/-- R156, R221: KEYEXP with an admitted 32-byte key installs Expand's schedule, H = Cipher(0¹²⁸) under it and KEY_VALID = 1, and
changes nothing else. -/
def Obligations.KeyexpInstallsInstance : Prop :=
  ∀ (s : State) (k : Bytes), k.length = 32 → s.admits .keyexp → s.holds s.opr.srcAddr.toNat k →
    ∃ w, expand k = some w ∧
      exec .keyexp s =
        .next { s.ended .ok with sched := w, hsub := cipher w (Vector.replicate 16 0x00#8), keyValid := true }

/-! ### The block cipher (42_cipher.md) -/

/-- R170 to R180: Load puts byte r + 4c in row r and column c and Store undoes it; the entries of SubBytes, InvSubBytes, ShiftRows,
InvShiftRows and AddRoundKey; the four entries of a mixed column and of an inversely mixed one. Cipher goes through them with round
key 0, rounds 1 to 13, and round 14 without MixColumns; InvCipher with round key 14, rounds 13 down to 1, and round key 0 without
InvMixColumns. -/
def Obligations.TransformEntries : Prop :=
  (∀ b : Block, (∀ r c : Fin 4, (load b).at r c = b[r.val + 4 * c.val]) ∧ store (load b) = b) ∧
  (∀ (s : Matrix4) (r c : Fin 4),
    (subBytes s).at r c = sbox (s.at r c) ∧ (invSubBytes s).at r c = invSbox (s.at r c) ∧
      (∀ d : Fin 4, d.val = (c.val + r.val) % 4 → (shiftRows s).at r c = s.at r d ∧ (invShiftRows s).at r d = s.at r c) ∧
      ∀ (w : Schedule) (n : Fin 15),
        (addRoundKey w n s).at r c = s.at r c ^^^ (w[4 * n.val + c.val] >>> (8 * (3 - r.val))).setWidth 8) ∧
  (∀ (w : Schedule) (b : Block),
    (∃ m : Nat → Matrix4, m 0 = addRoundKey w 0 (load b) ∧
      (∀ r : Fin 15, 1 ≤ r.val → r.val ≤ 13 →
        m r.val = addRoundKey w r (mixColumns (shiftRows (subBytes (m (r.val - 1)))))) ∧
      cipher w b = store (addRoundKey w 14 (shiftRows (subBytes (m 13))))) ∧
    ∃ m : Nat → Matrix4, m 14 = addRoundKey w 14 (load b) ∧
      (∀ r : Fin 15, 1 ≤ r.val → r.val ≤ 13 →
        m r.val = invMixColumns (addRoundKey w r (invSubBytes (invShiftRows (m (r.val + 1)))))) ∧
      invCipher w b = store (addRoundKey w 0 (invSubBytes (invShiftRows (m 1))))) ∧
  ∀ (s : Matrix4) (c : Fin 4),
    (mixColumns s).at 0 c = gmul 0x02#8 (s.at 0 c) ^^^ gmul 0x03#8 (s.at 1 c) ^^^ s.at 2 c ^^^ s.at 3 c ∧
    (mixColumns s).at 1 c = s.at 0 c ^^^ gmul 0x02#8 (s.at 1 c) ^^^ gmul 0x03#8 (s.at 2 c) ^^^ s.at 3 c ∧
    (mixColumns s).at 2 c = s.at 0 c ^^^ s.at 1 c ^^^ gmul 0x02#8 (s.at 2 c) ^^^ gmul 0x03#8 (s.at 3 c) ∧
    (mixColumns s).at 3 c = gmul 0x03#8 (s.at 0 c) ^^^ s.at 1 c ^^^ s.at 2 c ^^^ gmul 0x02#8 (s.at 3 c) ∧
    (invMixColumns s).at 0 c =
      gmul 0x0e#8 (s.at 0 c) ^^^ gmul 0x0b#8 (s.at 1 c) ^^^ gmul 0x0d#8 (s.at 2 c) ^^^ gmul 0x09#8 (s.at 3 c) ∧
    (invMixColumns s).at 1 c =
      gmul 0x09#8 (s.at 0 c) ^^^ gmul 0x0e#8 (s.at 1 c) ^^^ gmul 0x0b#8 (s.at 2 c) ^^^ gmul 0x0d#8 (s.at 3 c) ∧
    (invMixColumns s).at 2 c =
      gmul 0x0d#8 (s.at 0 c) ^^^ gmul 0x09#8 (s.at 1 c) ^^^ gmul 0x0e#8 (s.at 2 c) ^^^ gmul 0x0b#8 (s.at 3 c) ∧
    (invMixColumns s).at 3 c =
      gmul 0x0b#8 (s.at 0 c) ^^^ gmul 0x0d#8 (s.at 1 c) ^^^ gmul 0x09#8 (s.at 2 c) ^^^ gmul 0x0e#8 (s.at 3 c)

/-- R181: InvCipher undoes Cipher and Cipher undoes InvCipher, for every schedule (so for every Expand(K)) and every block. -/
def Obligations.CipherRoundTrip : Prop :=
  ∀ (w : Schedule) (p : Block), invCipher w (cipher w p) = p ∧ cipher w (invCipher w p) = p

/-- R182: ENC of an admitted, defined block writes Cipher of it to its output and changes nothing else; in place too. -/
def Obligations.EncWritesCipher : Prop :=
  ∀ (s : State) (p : Block), s.admits .enc → s.holds s.opr.srcAddr.toNat p.toList →
    ∃ t, exec .enc s = .next t ∧ t.holds s.opr.dstAddr.toNat (cipher s.sched p).toList ∧
      s.sameOutside t [(s.opr.dstAddr.toNat, 16)] ∧ t = { s.ended .ok with buf := t.buf }

/-- R183: DEC of an admitted, defined block writes InvCipher of it to its output and changes nothing else; in place too. -/
def Obligations.DecWritesInvCipher : Prop :=
  ∀ (s : State) (p : Block), s.admits .dec → s.holds s.opr.srcAddr.toNat p.toList →
    ∃ t, exec .dec s = .next t ∧ t.holds s.opr.dstAddr.toNat (invCipher s.sched p).toList ∧
      s.sameOutside t [(s.opr.dstAddr.toNat, 16)] ∧ t = { s.ended .ok with buf := t.buf }

/-- R183: after an ENC in place, DEC with the registers as they stand gives every byte of the buffer back. -/
def Obligations.DecUndoesEncInPlace : Prop :=
  ∀ (s t : State), s.opr.dstAddr = s.opr.srcAddr → exec .enc s = .next t → t.errcode = .ok →
    ∃ u, exec .dec t = .next u ∧ u.errcode = .ok ∧ ∀ x, Memory.read u.buf x = Memory.read s.buf x

/-! ### GCM (43_gcm.md) -/

/-- R210: coefficient x_(8k+j) of a block is bit 7 − j of its byte k. -/
def Obligations.CoefficientBitOrder : Prop :=
  ∀ (x : Block) (k j : Nat) (hk : k < 16), j ≤ 7 → coeff (Block.int x) (8 * k + j) = x[k].getLsbD (7 - j)

/-- R212: the GF(2¹²⁸) product is commutative and associative, distributes over ⊕ (the bytewise exclusive-or), 0 absorbs and
80 00 … 00 is the one. Beside them, from R210 and R211, what fixes the modulus: α • α^i = α^(i+1) up to α¹²⁷, and
α • α¹²⁷ = E1 00 … 00, which is 1 + α + α² + α⁷. -/
def Obligations.Gf128Laws : Prop :=
  (∀ x y : Block, gfmul128 x y = gfmul128 y x) ∧ (∀ x y z : Block, gfmul128 (gfmul128 x y) z = gfmul128 x (gfmul128 y z)) ∧
    (∀ x y z : Block, gfmul128 x (Block.xor y z) = Block.xor (gfmul128 x y) (gfmul128 x z)) ∧
    (∀ x : Block, gfmul128 Block.zero x = Block.zero) ∧
    (∀ x : Block, gfmul128 (alphaPower 0) x = x) ∧
    (∀ (x y : Block) k (h : k < 16), (Block.xor x y)[k] = x[k] ^^^ y[k] ∧ Block.zero[k] = 0x00#8 ∧
      (alphaPower 0)[k] = if k = 0 then 0x80#8 else 0x00#8) ∧
    (∀ i, i < 127 → gfmul128 (alphaPower 1) (alphaPower i) = alphaPower (i + 1)) ∧
    gfmul128 (alphaPower 1) (alphaPower 127) = Vector.ofFn fun k => if k.val = 0 then 0xE1#8 else 0x00#8

/-- R220: the blocks GHASH takes are all sixteen bytes long and together are the AAD padded with the fewest zero bytes to a multiple
of sixteen, the ciphertext padded so, and the two bit lengths, eight bytes each with the first one most significant (for lengths
that eight bytes can hold; the spec states no others). GHASH is the fold X <- (X XOR B) • H over these blocks, from sixteen zero
bytes. -/
def Obligations.GhashTakesWholeBlocks : Prop :=
  ∀ a c : Bytes, (∀ b ∈ ghashBlocks a c, b.length = 16) ∧
    (∃ (m n : Nat) (la lc : Bytes), m < 16 ∧ n < 16 ∧ (a.length + m) % 16 = 0 ∧ (c.length + n) % 16 = 0 ∧
      la.length = 8 ∧ lc.length = 8 ∧ (8 * a.length < 2 ^ 64 → bigEndian la = 8 * a.length) ∧
      (8 * c.length < 2 ^ 64 → bigEndian lc = 8 * c.length) ∧
      (ghashBlocks a c).flatten = a ++ List.replicate m 0x00#8 ++ (c ++ List.replicate n 0x00#8) ++ (la ++ lc)) ∧
    ∀ h : Block, ∃ x : Nat → Block, (∀ k (_ : k < 16), (x 0)[k] = 0x00#8) ∧
      (∀ i (_ : i < (ghashBlocks a c).length), ∃ b : Block, b.toList = (ghashBlocks a c)[i] ∧
        x (i + 1) = gfmul128 (Vector.ofFn fun k => (x i)[k] ^^^ b[k]) h) ∧
      ghash h a c = x (ghashBlocks a c).length

/-- R222, R223: J0 is the nonce followed by 00 00 00 01; inc32 keeps the upper twelve bytes and adds 1 mod 2³² to the last four as a
big-endian number. -/
def Obligations.CounterBlocksStartAndWrap : Prop :=
  (∀ n : Bytes, n.length = 12 → (initialCounter n).toList = n ++ [0x00#8, 0x00#8, 0x00#8, 0x01#8]) ∧
  ∀ cb : Block, (∀ k (h : k < 12), (inc32 cb)[k] = cb[k]) ∧
    be32 (inc32 cb)[12] (inc32 cb)[13] (inc32 cb)[14] (inc32 cb)[15] = be32 cb[12] cb[13] cb[14] cb[15] + 1#32

/-- R224: byte 16i + j of the result is byte 16i + j of the input ⊕ byte j of Cipher(inc32^(i+1)(J0)), and the lengths agree. -/
def Obligations.GctrUsesIncrementedCounters : Prop :=
  ∀ (w : Schedule) (j0 : Block) (x : Bytes), (gctr w j0 x).length = x.length ∧
    ∀ i j (_ : j < 16), 16 * i + j < x.length →
      (gctr w j0 x)[16 * i + j]? = x[16 * i + j]?.map fun b => b ^^^ (cipher w (incTimes (i + 1) j0))[j]

/-- R233: GCM_AD of what GCM_AE gives, with its tag, is the plaintext. -/
def Obligations.GcmRoundTrip : Prop :=
  ∀ (w : Schedule) (h : Block) (n p a : Bytes), gcmAd w h n (gcmAe w h n p a).1 a (gcmAe w h n p a).2 = some p

/-- R234, first two cases: a tag or a 12-byte nonce that differs from the valid one always fails. -/
def Obligations.TamperedTagOrNonceFails : Prop :=
  ∀ (w : Schedule) (h : Block) (n c a : Bytes) (t : Block), n.length = 12 → t = tagOf w h n a c →
    (∀ t', t' ≠ t → gcmAd w h n c a t' = none) ∧ ∀ n' : Bytes, n'.length = 12 → n' ≠ n → gcmAd w h n' c a t = none

/-- R227: GCM_ENC on admitted regions with defined inputs writes the ciphertext and the tag of GCM_AE and changes nothing else; in
place too. -/
def Obligations.GcmEncWritesCiphertextAndTag : Prop :=
  ∀ (s : State) (n p a : Bytes), s.admits .gcmEnc →
    p.length = s.opr.srcLen.toNat → s.holds s.opr.srcAddr.toNat p →
    a.length = s.opr.aadLen.toNat → s.holds s.opr.aadAddr.toNat a →
    n.length = 12 → s.holds s.opr.nonceAddr.toNat n →
    ∃ t, exec .gcmEnc s = .next t ∧
      t.holds s.opr.dstAddr.toNat (gctr s.sched (initialCounter n) p) ∧
      t.holds s.opr.tagAddr.toNat
        (Block.xor (cipher s.sched (initialCounter n)) (ghash s.hsub a (gctr s.sched (initialCounter n) p))).toList ∧
      s.sameOutside t [(s.opr.dstAddr.toNat, s.opr.srcLen.toNat), (s.opr.tagAddr.toNat, 16)] ∧
      t = { s.ended .ok with buf := t.buf }

/-- R228, R229: GCM_DEC on admitted regions with defined inputs. Where the recomputed tag equals the supplied one it writes the
plaintext and changes nothing else; where it does not, it ends with AuthenticationFailure (code 3) and writes nothing at all. -/
def Obligations.GcmDecReleasesAllOrNothing : Prop :=
  ∀ (s : State) (n c a : Bytes) (tag : Block), s.admits .gcmDec →
    c.length = s.opr.srcLen.toNat → s.holds s.opr.srcAddr.toNat c →
    a.length = s.opr.aadLen.toNat → s.holds s.opr.aadAddr.toNat a →
    n.length = 12 → s.holds s.opr.nonceAddr.toNat n → s.holds s.opr.tagAddr.toNat tag.toList →
    (Block.xor (cipher s.sched (initialCounter n)) (ghash s.hsub a c) = tag →
      ∃ t, exec .gcmDec s = .next t ∧ t.holds s.opr.dstAddr.toNat (gctr s.sched (initialCounter n) c) ∧
        s.sameOutside t [(s.opr.dstAddr.toNat, s.opr.srcLen.toNat)] ∧ t = { s.ended .ok with buf := t.buf }) ∧
    (Block.xor (cipher s.sched (initialCounter n)) (ghash s.hsub a c) ≠ tag →
      exec .gcmDec s = .next (s.ended .authenticationFailure))

/-- R233 at the machine: after a GCM_ENC in place, GCM_DEC with the registers as they stand succeeds and gives back every byte of
the buffer outside the tag. -/
def Obligations.GcmDecUndoesGcmEncInPlace : Prop :=
  ∀ (s t : State), s.opr.dstAddr = s.opr.srcAddr → exec .gcmEnc s = .next t → t.errcode = .ok →
    ∃ u, exec .gcmDec t = .next u ∧ u.errcode = .ok ∧ s.sameOutside u [(s.opr.tagAddr.toNat, 16)]

/-- R231: GHASH on admitted regions with defined inputs writes GHASH_H(A, C) and changes nothing else. -/
def Obligations.GhashWritesHash : Prop :=
  ∀ (s : State) (a c : Bytes), s.admits .ghash →
    a.length = s.opr.aadLen.toNat → s.holds s.opr.aadAddr.toNat a →
    c.length = s.opr.srcLen.toNat → s.holds s.opr.srcAddr.toNat c →
    ∃ t, exec .ghash s = .next t ∧ t.holds s.opr.dstAddr.toNat (ghash s.hsub a c).toList ∧
      s.sameOutside t [(s.opr.dstAddr.toNat, 16)] ∧ t = { s.ended .ok with buf := t.buf }

/-- R232: GFMUL128 on admitted regions with defined inputs writes the product of the two blocks and changes nothing else. -/
def Obligations.Gfmul128WritesProduct : Prop :=
  ∀ (s : State) (x y : Block), s.admits .gfmul128 → s.holds s.opr.srcAddr.toNat (x.toList ++ y.toList) →
    ∃ t, exec .gfmul128 s = .next t ∧ t.holds s.opr.dstAddr.toNat (gfmul128 x y).toList ∧
      s.sameOutside t [(s.opr.dstAddr.toNat, 16)] ∧ t = { s.ended .ok with buf := t.buf }

/-! ### The register window (10_state.md) -/

/-- R23: a write of CMD with BUSY = 0 accepts the word, legal or not; with BUSY = 1 it is dropped and sets DROP; a read of CMD
returns 0 and has no effect. -/
def Obligations.CmdAcceptsOrDrops : Prop :=
  ∀ (s : State) (rest : List Event),
    (∀ v : Word, s.script = .host (.write 0x000#32 (.b4 v)) :: rest →
      (s.busy = false →
        step s = .next { s with script := rest, responses := s.responses ++ [.okayWrite], latch := v,
                                lastop := v.extractLsb' 0 8, errcode := .ok, done := false, busy := true }) ∧
      (s.busy = true →
        step s = .next { s with script := rest, responses := s.responses ++ [.okayWrite], drop := true })) ∧
    (s.script = .host (.read 0x000#32 .b4) :: rest →
      step s = .next { s with script := rest, responses := s.responses ++ [.okayRead (.b4 0#32)] })

/-- R24, R260: a read of STATUS, whatever BUSY is, returns a word with these fields, the reserved bits 0; the ten result codes show
in ERRCODE as their numbers 0 to 9. -/
def Obligations.StatusReadShowsFields : Prop :=
  (ResultCode.ok.bits = 0#4 ∧ ResultCode.invalidKeyLength.bits = 1#4 ∧ ResultCode.invalidBlockLength.bits = 2#4 ∧
    ResultCode.authenticationFailure.bits = 3#4 ∧ ResultCode.internalInvariantViolation.bits = 4#4 ∧
    ResultCode.illegalCommand.bits = 5#4 ∧ ResultCode.noKey.bits = 6#4 ∧ ResultCode.unsupportedNonceLength.bits = 7#4 ∧
    ResultCode.rangeError.bits = 8#4 ∧ ResultCode.overlapError.bits = 9#4) ∧
  ∀ (s : State) (rest : List Event), s.script = .host (.read 0x004#32 .b4) :: rest →
    ∃ w : Word, step s = .next { s with script := rest, responses := s.responses ++ [.okayRead (.b4 w)] } ∧
      w.getLsbD 0 = s.busy ∧ w.getLsbD 1 = s.done ∧ w.getLsbD 2 = decide (s.errcode.bits ≠ 0#4) ∧ w.getLsbD 3 = s.keyValid ∧
      w.getLsbD 4 = s.drop ∧ w.extractLsb' 5 3 = 0#3 ∧ w.extractLsb' 8 4 = s.errcode.bits ∧ w.extractLsb' 12 4 = 0#4 ∧
      w.extractLsb' 16 8 = s.lastop ∧ w.extractLsb' 24 8 = 0#8

/-- R25: a write of v to STATUS clears DONE where v[1] = 1 and DROP where v[4] = 1, ignores every other bit, and is never dropped. -/
def Obligations.StatusWriteClearsDoneAndDrop : Prop :=
  ∀ (s : State) (rest : List Event) (v : Word), s.script = .host (.write 0x004#32 (.b4 v)) :: rest →
    step s = .next { s with script := rest, responses := s.responses ++ [.okayWrite],
                            done := if v.getLsbD 1 then false else s.done, drop := if v.getLsbD 4 then false else s.drop }

/-- R26, R27, R29: CTRL, CAPS and the reserved offsets, whatever BUSY is; none of these writes sets DROP. -/
def Obligations.CtrlCapsAndReservedAccesses : Prop :=
  ∀ (s : State) (rest : List Event) (v off : Word),
    (s.script = .host (.write 0x008#32 (.b4 v)) :: rest →
      step s = .next { s with script := rest, responses := s.responses ++ [.okayWrite], ie := v.getLsbD 0 }) ∧
    (s.script = .host (.read 0x008#32 .b4) :: rest →
      ∃ w : Word, step s = .next { s with script := rest, responses := s.responses ++ [.okayRead (.b4 w)] } ∧
        w.getLsbD 0 = s.ie ∧ w.extractLsb' 1 31 = 0#31) ∧
    (s.script = .host (.write 0x00C#32 (.b4 v)) :: rest →
      step s = .next { s with script := rest, responses := s.responses ++ [.okayWrite] }) ∧
    (s.script = .host (.read 0x00C#32 .b4) :: rest →
      ∃ w : Word, step s = .next { s with script := rest, responses := s.responses ++ [.okayRead (.b4 w)] } ∧
        w.toNat = s.config.bufSize) ∧
    ((0x030 ≤ off.toNat ∧ off.toNat ≤ 0x0FC ∨ 0x200 ≤ off.toNat ∧ off.toNat ≤ 0xFFC) → off.toNat % 4 = 0 →
      (s.script = .host (.read off .b4) :: rest →
        step s = .next { s with script := rest, responses := s.responses ++ [.okayRead (.b4 0#32)] }) ∧
      (s.script = .host (.write off (.b4 v)) :: rest →
        step s = .next { s with script := rest, responses := s.responses ++ [.okayWrite] }))

/-- R28: an operand register takes a written word whole while BUSY = 0 and reads it back, the other seven unchanged; a write while
BUSY = 1 is dropped and sets DROP; a read works whatever BUSY is. -/
def Obligations.OperandRegisterAccesses : Prop :=
  ∀ (s : State) (rest : List Event) (r : OperandReg) (v : Word),
    (s.script = .host (.write (operandOffset r) (.b4 v)) :: rest →
      (s.busy = false →
        ∃ o : OperandRegs, o.get r = v ∧ (∀ q, q ≠ r → o.get q = s.opr.get q) ∧
          step s = .next { s with script := rest, responses := s.responses ++ [.okayWrite], opr := o }) ∧
      (s.busy = true →
        step s = .next { s with script := rest, responses := s.responses ++ [.okayWrite], drop := true })) ∧
    (s.script = .host (.read (operandOffset r) .b4) :: rest →
      step s = .next { s with script := rest, responses := s.responses ++ [.okayRead (.b4 (s.opr.get r))] })

/-- R31, R33: SCHED[i] reads W[i] and HSUB[k] reads four bytes of H, big-endian, where SCHED_VISIBLE is true, and 0 where it is
false; both get BUSERR while BUSY = 1 and ignore writes. -/
def Obligations.SchedAndHsubReadback : Prop :=
  ∀ (s : State) (rest : List Event) (i : Fin 60) (k : Fin 4) (v : Word),
    (s.script = .host (.read (BitVec.ofNat 32 (0x100 + 4 * i.val)) .b4) :: rest →
      (s.busy = false →
        step s = .next { s with script := rest, responses := s.responses ++
          [.okayRead (.b4 (if s.config.schedVisible then s.sched[i.val] else 0#32))] }) ∧
      (s.busy = true → step s = .next { s with script := rest, responses := s.responses ++ [.busErr] })) ∧
    (s.script = .host (.write (BitVec.ofNat 32 (0x100 + 4 * i.val)) (.b4 v)) :: rest →
      step s = .next { s with script := rest, responses := s.responses ++ [.okayWrite] }) ∧
    (s.script = .host (.read (BitVec.ofNat 32 (0x1F0 + 4 * k.val)) .b4) :: rest →
      (s.busy = false →
        step s = .next { s with script := rest, responses := s.responses ++
          [.okayRead (.b4 (if s.config.schedVisible then
            be32 s.hsub[4 * k.val] s.hsub[4 * k.val + 1] s.hsub[4 * k.val + 2] s.hsub[4 * k.val + 3] else 0#32))] }) ∧
      (s.busy = true → step s = .next { s with script := rest, responses := s.responses ++ [.busErr] })) ∧
    (s.script = .host (.write (BitVec.ofNat 32 (0x1F0 + 4 * k.val)) (.b4 v)) :: rest →
      step s = .next { s with script := rest, responses := s.responses ++ [.okayWrite] })

/-- R39: the interrupt output is IE ∧ DONE at every point; it rises when a command completes with IE = 1, and a STATUS write of bit 1, the acceptance of a
command, IE = 0 and reset each leave it low. -/
def Obligations.InterruptFollowsDoneAndIe : Prop :=
  ∀ (s t : State),
    s.irq = (s.ie && s.done) ∧ (∀ i, exec i s = .next t → t.irq = s.ie) ∧
    (∀ v rest, s.script = .host (.write 0x004#32 (.b4 v)) :: rest → v.getLsbD 1 = true → step s = .next t → t.irq = false) ∧
    (∀ v rest, s.script = .host (.write 0x000#32 (.b4 v)) :: rest → s.busy = false → step s = .next t → t.irq = false) ∧
    (∀ v rest, s.script = .host (.write 0x008#32 (.b4 v)) :: rest → step s = .next t → t.irq = (v.getLsbD 0 && s.done)) ∧
    (∀ rest, s.script = .reset :: rest → step s = .next t → t.irq = false)

/-! ### The host port (20_memory.md) -/

/-- R66: a register-window access that is not 32 bits wide or not aligned gets BUSERR and has no effect. -/
def Obligations.MalformedRegisterAccessIsBusErr : Prop :=
  ∀ (s : State) (rest : List Event) (off : Word), off.toNat ≤ 0xFFF →
    (∀ z, s.script = .host (.read off z) :: rest → (z ≠ .b4 ∨ off.toNat % 4 ≠ 0) →
      step s = .next { s with script := rest, responses := s.responses ++ [.busErr] }) ∧
    (∀ d, s.script = .host (.write off d) :: rest → (d.size ≠ .b4 ∨ off.toNat % 4 ≠ 0) →
      step s = .next { s with script := rest, responses := s.responses ++ [.busErr] })

/-- R68: an aligned buffer write with BUSY = 0 stores its bytes, most significant at the lowest address, and changes nothing
else. -/
def Obligations.BufferWriteIsBigEndian : Prop :=
  ∀ (s : State) (rest : List Event) (a : Nat) (d : HostData),
    s.script = .host (.write (BitVec.ofNat 32 (0x10000 + a)) d) :: rest → a < s.config.bufSize → a % d.size.bytes = 0 →
    s.busy = false →
    ∃ t, step s = .next t ∧
      (∀ k, k < d.size.bytes → Memory.read t.buf (a + k) = some (byteOfValue d.size.bytes d.toNat k)) ∧
      s.sameOutside t [(a, d.size.bytes)] ∧
      t = { s with script := rest, responses := s.responses ++ [.okayWrite], buf := t.buf }

/-- R67: an aligned buffer read with BUSY = 0 of defined bytes returns them, the first one most significant, and changes nothing;
where one of its bytes is undefined the model faults with UninitRead of such a byte (R73). -/
def Obligations.BufferReadIsBigEndian : Prop :=
  ∀ (s : State) (rest : List Event) (a : Nat) (z : AccessSize),
    s.script = .host (.read (BitVec.ofNat 32 (0x10000 + a)) z) :: rest → a < s.config.bufSize → a % z.bytes = 0 →
    s.busy = false →
    ((∀ k, k < z.bytes → (Memory.read s.buf (a + k)).isSome) →
      ∃ d : HostData, d.size = z ∧
        step s = .next { s with script := rest, responses := s.responses ++ [.okayRead d] } ∧
        ∀ k, k < z.bytes → Memory.read s.buf (a + k) = some (byteOfValue z.bytes d.toNat k)) ∧
    ((∃ k, k < z.bytes ∧ Memory.read s.buf (a + k) = none) →
      ∃ k, k < z.bytes ∧ Memory.read s.buf (a + k) = none ∧ step s = .fault (.uninitRead (a + k)))

/-- R69, R70: a misaligned buffer access (with BUSY = 0: what one does while BUSY = 1 is R71) and any access to an unmapped offset
get BUSERR and have no effect. -/
def Obligations.MisalignedOrUnmappedIsBusErr : Prop :=
  ∀ (s : State) (rest : List Event) (off : Word),
    (0x10000 ≤ off.toNat → off.toNat < 0x10000 + s.config.bufSize → s.busy = false →
      (∀ z, s.script = .host (.read off z) :: rest → (off.toNat - 0x10000) % z.bytes ≠ 0 →
        step s = .next { s with script := rest, responses := s.responses ++ [.busErr] }) ∧
      (∀ d, s.script = .host (.write off d) :: rest → (off.toNat - 0x10000) % d.size.bytes ≠ 0 →
        step s = .next { s with script := rest, responses := s.responses ++ [.busErr] })) ∧
    ((0x1000 ≤ off.toNat ∧ off.toNat < 0x10000 ∨ 0x10000 + s.config.bufSize ≤ off.toNat) →
      (∀ z, s.script = .host (.read off z) :: rest →
        step s = .next { s with script := rest, responses := s.responses ++ [.busErr] }) ∧
      (∀ d, s.script = .host (.write off d) :: rest →
        step s = .next { s with script := rest, responses := s.responses ++ [.busErr] }))

/-- R71 (1), (2): while BUSY = 1 a buffer-window read gets BUSERR and has no effect, and a buffer-window write gets BUSERR, sets
DROP and has no other effect. That a MISALIGNED write sets DROP too is the model's reading of R71 against R69 (log 7). -/
def Obligations.BusyBufferAccesses : Prop :=
  ∀ (s : State) (rest : List Event) (off : Word), 0x10000 ≤ off.toNat → off.toNat < 0x10000 + s.config.bufSize →
    s.busy = true →
    (∀ z, s.script = .host (.read off z) :: rest →
      step s = .next { s with script := rest, responses := s.responses ++ [.busErr] }) ∧
    (∀ d, s.script = .host (.write off d) :: rest →
      step s = .next { s with script := rest, responses := s.responses ++ [.busErr], drop := true })

/-- R71, last sentence: while a command runs no host transaction can see BUF, W or H (two states that differ in them only take it
alike), and none changes BUF, W, H, an operand register or LATCH. -/
def Obligations.RunningCommandIsHiddenFromHost : Prop :=
  ∀ (s : State) (tx : HostTx) (rest : List Event) (b : Memory) (w : Schedule) (h : Block), s.busy = true →
    s.script = .host tx :: rest →
    ∃ t, step s = .next t ∧ step { s with buf := b, sched := w, hsub := h } = .next { t with buf := b, sched := w, hsub := h } ∧
      t.buf = s.buf ∧ t.sched = s.sched ∧ t.hsub = s.hsub ∧ t.opr = s.opr ∧ t.latch = s.latch ∧ t.busy = true

/-- R72: a host read changes no state: it hands the host a response and nothing else. -/
def Obligations.HostReadsHaveNoSideEffect : Prop :=
  ∀ (s t : State) (off : Word) (z : AccessSize) (rest : List Event), s.script = .host (.read off z) :: rest → step s = .next t →
    ∃ r : HostResponse, t = { s with script := rest, responses := s.responses ++ [r] }

/-- R43, R73: a step that meets a model fault appends it to the fault record, a step that answers a next state leaves the record as
it was, and a run with a fault on record is never final (R13). The recorded step is the model's form of this bookkeeping (log 5). -/
def Obligations.FaultRecordOnlyGrows : Prop :=
  ∀ s : State, (∃ l, (recordingStep s).faults = s.faults ++ l) ∧
    (∀ t, step s = .next t → (recordingStep s).faults = s.faults) ∧
    (∀ f, step s = .fault f → (recordingStep s).faults = s.faults ++ [f]) ∧ (s.faults ≠ [] → ¬ (recordingStep s).final)

/-! ### Reset and whole-machine rules -/

/-- R44, R290, R291: a reset, whatever is running, leaves every register at the table's value, no buffer byte defined, irq low, and
the fault record as it was. That the parameters, the responses and the rest of the script stay is the model's reading (log 13). -/
def Obligations.ResetEventClearsEngine : Prop :=
  ∀ (s : State) (rest : List Event), s.script = .reset :: rest →
    ∃ t, step s = .next t ∧ t.status = 0#32 ∧ t.ctrl = 0#32 ∧ (∀ r, t.opr.get r = 0#32) ∧ t.latch = 0#32 ∧
      (∀ i (h : i < 60), t.sched[i] = 0#32) ∧ (∀ k (h : k < 16), t.hsub[k] = 0#8) ∧ t.keyValid = false ∧ t.busy = false ∧
      t.irq = false ∧ (∀ x, Memory.read t.buf x = none) ∧ t.faults = s.faults ∧ t.config = s.config ∧ t.script = rest ∧
      t.responses = s.responses

/-- R44, R22: the machine right after reset. CAPS reads the default BUF_SIZE (R9); the empty fault record, script and responses are
the model's (logs 1, 5). -/
def Obligations.ResetStateValues : Prop :=
  State.reset.status = 0#32 ∧ State.reset.ctrl = 0#32 ∧ State.reset.caps = 65536#32 ∧
    (∀ r, State.reset.opr.get r = 0#32) ∧ State.reset.latch = 0#32 ∧ (∀ i (h : i < 60), State.reset.sched[i] = 0#32) ∧
    (∀ k (h : k < 16), State.reset.hsub[k] = 0#8) ∧ State.reset.keyValid = false ∧ State.reset.irq = false ∧
    (∀ x, Memory.read State.reset.buf x = none)

/-- R30, R32, R34, R81, R157: no step changes W, H or KEY_VALID but a reset and the EngineStep of a KEYEXP that ends with code 0. -/
def Obligations.OnlyKeyexpAndResetChangeInstance : Prop :=
  ∀ (s t : State), step s = .next t → ¬ (t.sched = s.sched ∧ t.hsub = s.hsub ∧ t.keyValid = s.keyValid) →
    s.script.head? = some .reset ∨
      (s.engineNext ∧ s.busy = true ∧ decode s.latch = .ok .keyexp ∧ t.errcode = .ok ∧ t.keyValid = true)

/-- R36: BUSY falls only at an EngineStep, which sets DONE, and at reset. -/
def Obligations.BusyFallsOnlyAtCompletionOrReset : Prop :=
  ∀ (s t : State), step s = .next t → s.busy = true → t.busy = false →
    s.script.head? = some .reset ∨ (s.engineNext ∧ t.done = true)

/-- R38: DROP is sticky: only a reset and a host write of 1 to STATUS bit 4 clear it. -/
def Obligations.DropIsSticky : Prop :=
  ∀ (s t : State), step s = .next t → s.drop = true → t.drop = false →
    s.script.head? = some .reset ∨
      ∃ v : Word, s.script.head? = some (.host (.write 0x004#32 (.b4 v))) ∧ v.getLsbD 4 = true

/-- R12: with nothing else to do a running command completes in the next step, or meets a model fault. -/
def Obligations.RunningCommandCompletes : Prop :=
  ∀ s : State, s.busy = true → s.script = [] →
    (∃ t, step s = .next t ∧ t.busy = false ∧ t.done = true) ∨ ∃ x, step s = .fault (.uninitRead x) ∧ Memory.read s.buf x = none

/-- R30, R34, R35, R42, R60, R157, R270 and R23: every step keeps the invariant: the buffer in canonical form inside BUF_SIZE, DONE
and ERRCODE 0 while a command runs, LASTOP = LATCH[7:0], ERRCODE never 4, and W and H either a whole instance or still zero. -/
def Obligations.StepKeepsMachineInvariant : Prop := ∀ (s t : State), s.Inv → step s = .next t → t.Inv

/-- The invariant holds at reset. -/
def Obligations.ResetMeetsMachineInvariant : Prop := State.reset.Inv
end

