-- ==== Sys2Proof/Laws/Bytes.lean ====
section
/-!
SUPPORT. Lengths and conversions of byte strings, blocks and words (00_scope.md section 6).
-/

namespace Sys2Proof.Machine

@[simp] theorem block_toBytes_length (b : Block) : (Block.toBytes b).length = 16 := by simp [Block.toBytes]

theorem block_toBytes_eq (b : Block) : Block.toBytes b = b.toList := rfl

/-- A block's own bytes make the block again. -/
@[simp] theorem block_ofBytes_toList (b : Block) : Block.ofBytes b.toList = b := by
  ext i hi
  simp [Block.ofBytes, List.getD_eq_getElem?_getD]

/-- A string of sixteen bytes is the string of the block it makes. -/
theorem block_toList_ofBytes (l : Bytes) (h : l.length = 16) : (Block.ofBytes l).toList = l := by
  apply List.ext_getElem
  · simp [h]
  · intro i h1 h2
    simp [Block.ofBytes, List.getD_eq_getElem?_getD, h2]

@[simp] theorem block_zero_getElem (i : Nat) (h : i < 16) : Block.zero[i] = 0#8 := by simp [Block.zero]

@[simp] theorem block_xor_getElem (a b : Block) (i : Nat) (h : i < 16) : (Block.xor a b)[i] = a[i] ^^^ b[i] := by
  simp [Block.xor]

/-- Exclusive-or with the same block twice gives the block back. -/
theorem block_xor_xor_cancel (a b : Block) : Block.xor a (Block.xor a b) = b := by
  ext i hi
  simp

@[simp] theorem be64_length (n : Nat) : (be64 n).length = 8 := by simp [be64]

@[simp] theorem wordBytes_length (w : Word) : (wordBytes w).length = 4 := rfl

/-- Bit i of a word made of four bytes. -/
theorem be32_getLsbD (a b c d : Byte) (i : Nat) : (be32 a b c d).getLsbD i =
   if i < 8 then d.getLsbD i else if i < 16 then c.getLsbD (i-8) else if i < 24 then b.getLsbD (i-16) else a.getLsbD (i-24) := by
  simp only [be32, BitVec.getLsbD_or, BitVec.getLsbD_shiftLeft, BitVec.getLsbD_setWidth]
  have ha : ∀ (x : Byte) n, 8 ≤ n → x.getLsbD n = false := fun x n h => BitVec.getLsbD_of_ge x n h
  split
  · next h => simp [show i < 24 by omega, show i < 16 by omega, h, show i < 32 by omega]
  · split
    · next h1 h => simp [show i < 24 by omega, h1, h, show i < 32 by omega, ha d i (by omega), show i - 8 < 32 by omega]
    · split
      · next h2 h1 h => simp [h1, h2, h, show i < 32 by omega, ha d i (by omega), show i - 8 < 32 by omega, ha c (i-8) (by omega), show i - 16 < 32 by omega]
      · next h2 h1 h =>
        by_cases h3 : i < 32
        · simp [h1, h2, h, h3, ha d i (by omega), ha c (i-8) (by omega), ha b (i-16) (by omega), show i - 24 < 32 by omega]
        · simp [h3, ha a (i-24) (by omega)]

/-- The bytes of a word made of four bytes are those bytes (00_scope.md, BE32). -/
theorem wordByte_be32 (a b c d : Byte) :
    wordByte (be32 a b c d) 0 = a ∧ wordByte (be32 a b c d) 1 = b ∧ wordByte (be32 a b c d) 2 = c ∧
      wordByte (be32 a b c d) 3 = d := by
  refine ⟨?_, ?_, ?_, ?_⟩ <;> apply BitVec.eq_of_getLsbD_eq <;> intro i hi <;>
    simp only [wordByte, BitVec.getLsbD_extractLsb', be32_getLsbD, hi, decide_true, Bool.true_and]
  · simp [show ¬ 24 + i < 8 by omega, show ¬ 24 + i < 16 by omega, show ¬ 24 + i < 24 by omega]
  · simp [show ¬ 16 + i < 8 by omega, show ¬ 16 + i < 16 by omega, show 16 + i < 24 by omega]
  · simp [show ¬ 8 + i < 8 by omega, show 8 + i < 16 by omega]
  · simp [hi]

/-- A word is made of its bytes. -/
theorem be32_wordByte (w : Word) : be32 (wordByte w 0) (wordByte w 1) (wordByte w 2) (wordByte w 3) = w := by
  apply BitVec.eq_of_getLsbD_eq
  intro i hi
  rw [be32_getLsbD]
  simp only [wordByte, BitVec.getLsbD_extractLsb']
  split
  · next h => simp [h]
  · split
    · next h1 h => simp [show i - 8 < 8 by omega, show 8 + (i - 8) = i by omega]
    · split
      · next h2 h1 h => simp [show i - 16 < 8 by omega, show 16 + (i - 16) = i by omega]
      · next h2 h1 h => simp [show i - 24 < 8 by omega, show 24 + (i - 24) = i by omega]

@[simp] theorem xorFirst_length (x : Bytes) (k : Block) (h : x.length ≤ 16) : (xorFirst x k).length = x.length := by
  simp [xorFirst, Block.toBytes]; omega

/-- The keystream cancels: the transform of a piece is its own inverse. -/
theorem xorFirst_xorFirst (x : Bytes) (k : Block) (h : x.length ≤ 16) : xorFirst (xorFirst x k) k = x := by
  apply List.ext_getElem
  · simp [h]
  · intro i h1 h2
    simp [xorFirst, Block.toBytes]

/-! ### Cutting into blocks -/

/-- Enough pieces rebuild the string, each of 1 to 16 bytes. -/
theorem cutBlocks_flatten (n : Nat) (l : Bytes) (h : l.length ≤ 16 * n) : (cutBlocks n l).flatten = l := by
  induction n generalizing l with
  | zero => cases l with
    | nil => rfl
    | cons b l => simp at h
  | succ n ih => cases l with
    | nil => rfl
    | cons b l =>
      rw [cutBlocks, List.flatten_cons, ih _ (by simp only [List.length_drop, List.length_cons] at *; omega)]
      exact List.take_append_drop 16 _

/-- No piece is longer than sixteen bytes. -/
theorem cutBlocks_length_le (n : Nat) (l : Bytes) : ∀ b ∈ cutBlocks n l, b.length ≤ 16 := by
  induction n generalizing l with
  | zero => simp [cutBlocks]
  | succ n ih => cases l with
    | nil => simp [cutBlocks]
    | cons c l =>
      intro b hb
      rcases List.mem_cons.1 hb with rfl | hb
      · simp only [List.length_take]; omega
      · exact ih _ b hb

theorem blocks_flatten (l : Bytes) : (blocks l).flatten = l := cutBlocks_flatten _ _ (by omega)

theorem blocks_length_le (l : Bytes) : ∀ b ∈ blocks l, b.length ≤ 16 := cutBlocks_length_le _ _

/-- The number of pieces allowed does not matter once it is enough. -/
theorem cutBlocks_enough (n m : Nat) (l : Bytes) (h : l.length ≤ 16 * n) (h' : l.length ≤ 16 * m) :
    cutBlocks n l = cutBlocks m l := by
  induction n generalizing l m with
  | zero => cases l with
    | nil => cases m <;> rfl
    | cons b l => simp at h
  | succ n ih => cases l with
    | nil => cases m <;> rfl
    | cons b l => cases m with
      | zero => simp at h'
      | succ m =>
        rw [cutBlocks, cutBlocks, ih m _ (by simp only [List.length_drop, List.length_cons] at *; omega)
          (by simp only [List.length_drop, List.length_cons] at *; omega)]

/-- The first piece is the first sixteen bytes, and the rest are the pieces of the rest. -/
theorem blocks_cons (l : Bytes) (h : l ≠ []) : blocks l = l.take 16 :: blocks (l.drop 16) := by
  cases l with
  | nil => exact absurd rfl h
  | cons b l =>
    rw [blocks, List.length_cons, cutBlocks, blocks]
    congr 1
    exact cutBlocks_enough _ _ _ (by simp only [List.length_drop, List.length_cons]; omega) (by omega)

@[simp] theorem blocks_nil : blocks [] = [] := rfl

end Sys2Proof.Machine
end

