-- ==== Sys2Proof/Laws/Cipher.lean ====
section
/-!
SUPPORT. The entries of the State matrix (42_cipher.md R170 to R178), one lemma per transform, and the lengths of what the GCM
functions give (43_gcm.md R224).
-/

namespace Sys2Proof.Machine

@[simp] theorem matrix4_at_ofFn (f : Fin 4 → Fin 4 → Byte) (r c : Fin 4) : (Matrix4.ofFn f).at r c = f r c := by
  simp [Matrix4.ofFn, Matrix4.at]

/-- Matrices are equal where all sixteen entries are. -/
theorem matrix4_ext (s t : Matrix4) (h : ∀ r c, s.at r c = t.at r c) : s = t := by
  apply Vector.ext
  intro i hi
  apply Vector.ext
  intro j hj
  exact h ⟨i, hi⟩ ⟨j, hj⟩

/-- Counter mode gives one byte for each byte. -/
theorem gctrBlocks_length (w : Schedule) (cb : Block) (xs : List Bytes) (h : ∀ x ∈ xs, x.length ≤ 16) :
    (gctrBlocks w cb xs).length = xs.flatten.length := by
  induction xs generalizing cb with
  | nil => rfl
  | cons x xs ih =>
    rw [gctrBlocks, List.length_append, ih _ (fun y hy => h y (List.mem_cons_of_mem _ hy)),
      xorFirst_length x _ (h x (List.mem_cons_self ..)), List.flatten_cons, List.length_append]

/-- GCTR keeps the length (43_gcm.md R224: "|result| = |X|"). -/
@[simp] theorem gctr_length (w : Schedule) (j0 : Block) (x : Bytes) : (gctr w j0 x).length = x.length := by
  rw [gctr, gctrBlocks_length _ _ _ (blocks_length_le x), blocks_flatten]

end Sys2Proof.Machine
end

