-- ==== Sys2Proof/Laws/State.lean ====
section
/-!
SUPPORT. What each update of the state does to each field, one lemma per field per update, so that no proof unfolds a record update;
and the operand registers and the values at reset.
-/

namespace Sys2Proof.Machine

/-! ### `State.memWrite` -/

@[simp] theorem memWrite_config (s : State) (a : Nat) (v : Bytes) : (s.memWrite a v).config = s.config := rfl
@[simp] theorem memWrite_busy (s : State) (a : Nat) (v : Bytes) : (s.memWrite a v).busy = s.busy := rfl
@[simp] theorem memWrite_done (s : State) (a : Nat) (v : Bytes) : (s.memWrite a v).done = s.done := rfl
@[simp] theorem memWrite_drop (s : State) (a : Nat) (v : Bytes) : (s.memWrite a v).drop = s.drop := rfl
@[simp] theorem memWrite_errcode (s : State) (a : Nat) (v : Bytes) : (s.memWrite a v).errcode = s.errcode := rfl
@[simp] theorem memWrite_lastop (s : State) (a : Nat) (v : Bytes) : (s.memWrite a v).lastop = s.lastop := rfl
@[simp] theorem memWrite_keyValid (s : State) (a : Nat) (v : Bytes) : (s.memWrite a v).keyValid = s.keyValid := rfl
@[simp] theorem memWrite_ie (s : State) (a : Nat) (v : Bytes) : (s.memWrite a v).ie = s.ie := rfl
@[simp] theorem memWrite_opr (s : State) (a : Nat) (v : Bytes) : (s.memWrite a v).opr = s.opr := rfl
@[simp] theorem memWrite_latch (s : State) (a : Nat) (v : Bytes) : (s.memWrite a v).latch = s.latch := rfl
@[simp] theorem memWrite_sched (s : State) (a : Nat) (v : Bytes) : (s.memWrite a v).sched = s.sched := rfl
@[simp] theorem memWrite_hsub (s : State) (a : Nat) (v : Bytes) : (s.memWrite a v).hsub = s.hsub := rfl
@[simp] theorem memWrite_buf (s : State) (a : Nat) (v : Bytes) : (s.memWrite a v).buf = Memory.writeBytes s.buf a v := rfl
@[simp] theorem memWrite_faults (s : State) (a : Nat) (v : Bytes) : (s.memWrite a v).faults = s.faults := rfl
@[simp] theorem memWrite_script (s : State) (a : Nat) (v : Bytes) : (s.memWrite a v).script = s.script := rfl
@[simp] theorem memWrite_responses (s : State) (a : Nat) (v : Bytes) : (s.memWrite a v).responses = s.responses := rfl

/-! ### `State.accept` -/

@[simp] theorem accept_config (s : State) (w : Word) : (s.accept w).config = s.config := rfl
@[simp] theorem accept_busy (s : State) (w : Word) : (s.accept w).busy = true := rfl
@[simp] theorem accept_done (s : State) (w : Word) : (s.accept w).done = false := rfl
@[simp] theorem accept_drop (s : State) (w : Word) : (s.accept w).drop = s.drop := rfl
@[simp] theorem accept_errcode (s : State) (w : Word) : (s.accept w).errcode = .ok := rfl
@[simp] theorem accept_lastop (s : State) (w : Word) : (s.accept w).lastop = w.setWidth 8 := rfl
@[simp] theorem accept_keyValid (s : State) (w : Word) : (s.accept w).keyValid = s.keyValid := rfl
@[simp] theorem accept_ie (s : State) (w : Word) : (s.accept w).ie = s.ie := rfl
@[simp] theorem accept_opr (s : State) (w : Word) : (s.accept w).opr = s.opr := rfl
@[simp] theorem accept_latch (s : State) (w : Word) : (s.accept w).latch = w := rfl
@[simp] theorem accept_sched (s : State) (w : Word) : (s.accept w).sched = s.sched := rfl
@[simp] theorem accept_hsub (s : State) (w : Word) : (s.accept w).hsub = s.hsub := rfl
@[simp] theorem accept_buf (s : State) (w : Word) : (s.accept w).buf = s.buf := rfl
@[simp] theorem accept_faults (s : State) (w : Word) : (s.accept w).faults = s.faults := rfl
@[simp] theorem accept_script (s : State) (w : Word) : (s.accept w).script = s.script := rfl
@[simp] theorem accept_responses (s : State) (w : Word) : (s.accept w).responses = s.responses := rfl

/-! ### `State.complete` -/

@[simp] theorem complete_config (s : State) (c : ResultCode) : (s.complete c).config = s.config := rfl
@[simp] theorem complete_busy (s : State) (c : ResultCode) : (s.complete c).busy = false := rfl
@[simp] theorem complete_done (s : State) (c : ResultCode) : (s.complete c).done = true := rfl
@[simp] theorem complete_drop (s : State) (c : ResultCode) : (s.complete c).drop = s.drop := rfl
@[simp] theorem complete_errcode (s : State) (c : ResultCode) : (s.complete c).errcode = c := rfl
@[simp] theorem complete_lastop (s : State) (c : ResultCode) : (s.complete c).lastop = s.lastop := rfl
@[simp] theorem complete_keyValid (s : State) (c : ResultCode) : (s.complete c).keyValid = s.keyValid := rfl
@[simp] theorem complete_ie (s : State) (c : ResultCode) : (s.complete c).ie = s.ie := rfl
@[simp] theorem complete_opr (s : State) (c : ResultCode) : (s.complete c).opr = s.opr := rfl
@[simp] theorem complete_latch (s : State) (c : ResultCode) : (s.complete c).latch = s.latch := rfl
@[simp] theorem complete_sched (s : State) (c : ResultCode) : (s.complete c).sched = s.sched := rfl
@[simp] theorem complete_hsub (s : State) (c : ResultCode) : (s.complete c).hsub = s.hsub := rfl
@[simp] theorem complete_buf (s : State) (c : ResultCode) : (s.complete c).buf = s.buf := rfl
@[simp] theorem complete_faults (s : State) (c : ResultCode) : (s.complete c).faults = s.faults := rfl
@[simp] theorem complete_script (s : State) (c : ResultCode) : (s.complete c).script = s.script := rfl
@[simp] theorem complete_responses (s : State) (c : ResultCode) : (s.complete c).responses = s.responses := rfl

/-! ### `State.raise` -/

@[simp] theorem raise_config (s : State) (e : ResultCode) : (s.raise e).config = s.config := rfl
@[simp] theorem raise_busy (s : State) (e : ResultCode) : (s.raise e).busy = false := rfl
@[simp] theorem raise_done (s : State) (e : ResultCode) : (s.raise e).done = true := rfl
@[simp] theorem raise_drop (s : State) (e : ResultCode) : (s.raise e).drop = s.drop := rfl
@[simp] theorem raise_errcode (s : State) (e : ResultCode) : (s.raise e).errcode = e := rfl
@[simp] theorem raise_lastop (s : State) (e : ResultCode) : (s.raise e).lastop = s.lastop := rfl
@[simp] theorem raise_keyValid (s : State) (e : ResultCode) : (s.raise e).keyValid = s.keyValid := rfl
@[simp] theorem raise_ie (s : State) (e : ResultCode) : (s.raise e).ie = s.ie := rfl
@[simp] theorem raise_opr (s : State) (e : ResultCode) : (s.raise e).opr = s.opr := rfl
@[simp] theorem raise_latch (s : State) (e : ResultCode) : (s.raise e).latch = s.latch := rfl
@[simp] theorem raise_sched (s : State) (e : ResultCode) : (s.raise e).sched = s.sched := rfl
@[simp] theorem raise_hsub (s : State) (e : ResultCode) : (s.raise e).hsub = s.hsub := rfl
@[simp] theorem raise_buf (s : State) (e : ResultCode) : (s.raise e).buf = s.buf := rfl
@[simp] theorem raise_faults (s : State) (e : ResultCode) : (s.raise e).faults = s.faults := rfl
@[simp] theorem raise_script (s : State) (e : ResultCode) : (s.raise e).script = s.script := rfl
@[simp] theorem raise_responses (s : State) (e : ResultCode) : (s.raise e).responses = s.responses := rfl

/-! ### `State.install` -/

@[simp] theorem install_config (s : State) (w : Schedule) (h : Block) : (s.install w h).config = s.config := rfl
@[simp] theorem install_busy (s : State) (w : Schedule) (h : Block) : (s.install w h).busy = s.busy := rfl
@[simp] theorem install_done (s : State) (w : Schedule) (h : Block) : (s.install w h).done = s.done := rfl
@[simp] theorem install_drop (s : State) (w : Schedule) (h : Block) : (s.install w h).drop = s.drop := rfl
@[simp] theorem install_errcode (s : State) (w : Schedule) (h : Block) : (s.install w h).errcode = s.errcode := rfl
@[simp] theorem install_lastop (s : State) (w : Schedule) (h : Block) : (s.install w h).lastop = s.lastop := rfl
@[simp] theorem install_keyValid (s : State) (w : Schedule) (h : Block) : (s.install w h).keyValid = true := rfl
@[simp] theorem install_ie (s : State) (w : Schedule) (h : Block) : (s.install w h).ie = s.ie := rfl
@[simp] theorem install_opr (s : State) (w : Schedule) (h : Block) : (s.install w h).opr = s.opr := rfl
@[simp] theorem install_latch (s : State) (w : Schedule) (h : Block) : (s.install w h).latch = s.latch := rfl
@[simp] theorem install_sched (s : State) (w : Schedule) (h : Block) : (s.install w h).sched = w := rfl
@[simp] theorem install_hsub (s : State) (w : Schedule) (h : Block) : (s.install w h).hsub = h := rfl
@[simp] theorem install_buf (s : State) (w : Schedule) (h : Block) : (s.install w h).buf = s.buf := rfl
@[simp] theorem install_faults (s : State) (w : Schedule) (h : Block) : (s.install w h).faults = s.faults := rfl
@[simp] theorem install_script (s : State) (w : Schedule) (h : Block) : (s.install w h).script = s.script := rfl
@[simp] theorem install_responses (s : State) (w : Schedule) (h : Block) : (s.install w h).responses = s.responses := rfl

/-! ### `State.dropWrite` -/

@[simp] theorem dropWrite_config (s : State) : (s.dropWrite).config = s.config := rfl
@[simp] theorem dropWrite_busy (s : State) : (s.dropWrite).busy = s.busy := rfl
@[simp] theorem dropWrite_done (s : State) : (s.dropWrite).done = s.done := rfl
@[simp] theorem dropWrite_drop (s : State) : (s.dropWrite).drop = true := rfl
@[simp] theorem dropWrite_errcode (s : State) : (s.dropWrite).errcode = s.errcode := rfl
@[simp] theorem dropWrite_lastop (s : State) : (s.dropWrite).lastop = s.lastop := rfl
@[simp] theorem dropWrite_keyValid (s : State) : (s.dropWrite).keyValid = s.keyValid := rfl
@[simp] theorem dropWrite_ie (s : State) : (s.dropWrite).ie = s.ie := rfl
@[simp] theorem dropWrite_opr (s : State) : (s.dropWrite).opr = s.opr := rfl
@[simp] theorem dropWrite_latch (s : State) : (s.dropWrite).latch = s.latch := rfl
@[simp] theorem dropWrite_sched (s : State) : (s.dropWrite).sched = s.sched := rfl
@[simp] theorem dropWrite_hsub (s : State) : (s.dropWrite).hsub = s.hsub := rfl
@[simp] theorem dropWrite_buf (s : State) : (s.dropWrite).buf = s.buf := rfl
@[simp] theorem dropWrite_faults (s : State) : (s.dropWrite).faults = s.faults := rfl
@[simp] theorem dropWrite_script (s : State) : (s.dropWrite).script = s.script := rfl
@[simp] theorem dropWrite_responses (s : State) : (s.dropWrite).responses = s.responses := rfl

/-! ### `State.resetEngine` -/

@[simp] theorem resetEngine_config (s : State) : (s.resetEngine).config = s.config := rfl
@[simp] theorem resetEngine_busy (s : State) : (s.resetEngine).busy = State.reset.busy := rfl
@[simp] theorem resetEngine_done (s : State) : (s.resetEngine).done = State.reset.done := rfl
@[simp] theorem resetEngine_drop (s : State) : (s.resetEngine).drop = State.reset.drop := rfl
@[simp] theorem resetEngine_errcode (s : State) : (s.resetEngine).errcode = State.reset.errcode := rfl
@[simp] theorem resetEngine_lastop (s : State) : (s.resetEngine).lastop = State.reset.lastop := rfl
@[simp] theorem resetEngine_keyValid (s : State) : (s.resetEngine).keyValid = State.reset.keyValid := rfl
@[simp] theorem resetEngine_ie (s : State) : (s.resetEngine).ie = State.reset.ie := rfl
@[simp] theorem resetEngine_opr (s : State) : (s.resetEngine).opr = State.reset.opr := rfl
@[simp] theorem resetEngine_latch (s : State) : (s.resetEngine).latch = State.reset.latch := rfl
@[simp] theorem resetEngine_sched (s : State) : (s.resetEngine).sched = State.reset.sched := rfl
@[simp] theorem resetEngine_hsub (s : State) : (s.resetEngine).hsub = State.reset.hsub := rfl
@[simp] theorem resetEngine_buf (s : State) : (s.resetEngine).buf = State.reset.buf := rfl
@[simp] theorem resetEngine_faults (s : State) : (s.resetEngine).faults = s.faults := rfl
@[simp] theorem resetEngine_script (s : State) : (s.resetEngine).script = s.script := rfl
@[simp] theorem resetEngine_responses (s : State) : (s.resetEngine).responses = s.responses := rfl

/-! ### `State.recordFault` -/

@[simp] theorem recordFault_config (s : State) (f : Fault) : (s.recordFault f).config = s.config := rfl
@[simp] theorem recordFault_busy (s : State) (f : Fault) : (s.recordFault f).busy = s.busy := rfl
@[simp] theorem recordFault_done (s : State) (f : Fault) : (s.recordFault f).done = s.done := rfl
@[simp] theorem recordFault_drop (s : State) (f : Fault) : (s.recordFault f).drop = s.drop := rfl
@[simp] theorem recordFault_errcode (s : State) (f : Fault) : (s.recordFault f).errcode = s.errcode := rfl
@[simp] theorem recordFault_lastop (s : State) (f : Fault) : (s.recordFault f).lastop = s.lastop := rfl
@[simp] theorem recordFault_keyValid (s : State) (f : Fault) : (s.recordFault f).keyValid = s.keyValid := rfl
@[simp] theorem recordFault_ie (s : State) (f : Fault) : (s.recordFault f).ie = s.ie := rfl
@[simp] theorem recordFault_opr (s : State) (f : Fault) : (s.recordFault f).opr = s.opr := rfl
@[simp] theorem recordFault_latch (s : State) (f : Fault) : (s.recordFault f).latch = s.latch := rfl
@[simp] theorem recordFault_sched (s : State) (f : Fault) : (s.recordFault f).sched = s.sched := rfl
@[simp] theorem recordFault_hsub (s : State) (f : Fault) : (s.recordFault f).hsub = s.hsub := rfl
@[simp] theorem recordFault_buf (s : State) (f : Fault) : (s.recordFault f).buf = s.buf := rfl
@[simp] theorem recordFault_faults (s : State) (f : Fault) : (s.recordFault f).faults = s.faults ++ [f] := rfl
@[simp] theorem recordFault_script (s : State) (f : Fault) : (s.recordFault f).script = s.script := rfl
@[simp] theorem recordFault_responses (s : State) (f : Fault) : (s.recordFault f).responses = s.responses := rfl

/-! ### `State.respond` -/

@[simp] theorem respond_config (s : State) (r : HostResponse) : (s.respond r).config = s.config := rfl
@[simp] theorem respond_busy (s : State) (r : HostResponse) : (s.respond r).busy = s.busy := rfl
@[simp] theorem respond_done (s : State) (r : HostResponse) : (s.respond r).done = s.done := rfl
@[simp] theorem respond_drop (s : State) (r : HostResponse) : (s.respond r).drop = s.drop := rfl
@[simp] theorem respond_errcode (s : State) (r : HostResponse) : (s.respond r).errcode = s.errcode := rfl
@[simp] theorem respond_lastop (s : State) (r : HostResponse) : (s.respond r).lastop = s.lastop := rfl
@[simp] theorem respond_keyValid (s : State) (r : HostResponse) : (s.respond r).keyValid = s.keyValid := rfl
@[simp] theorem respond_ie (s : State) (r : HostResponse) : (s.respond r).ie = s.ie := rfl
@[simp] theorem respond_opr (s : State) (r : HostResponse) : (s.respond r).opr = s.opr := rfl
@[simp] theorem respond_latch (s : State) (r : HostResponse) : (s.respond r).latch = s.latch := rfl
@[simp] theorem respond_sched (s : State) (r : HostResponse) : (s.respond r).sched = s.sched := rfl
@[simp] theorem respond_hsub (s : State) (r : HostResponse) : (s.respond r).hsub = s.hsub := rfl
@[simp] theorem respond_buf (s : State) (r : HostResponse) : (s.respond r).buf = s.buf := rfl
@[simp] theorem respond_faults (s : State) (r : HostResponse) : (s.respond r).faults = s.faults := rfl
@[simp] theorem respond_script (s : State) (r : HostResponse) : (s.respond r).script = s.script := rfl
@[simp] theorem respond_responses (s : State) (r : HostResponse) : (s.respond r).responses = s.responses ++ [r] := rfl

/-! ### `State.setOperand` -/

@[simp] theorem setOperand_config (s : State) (r : OperandReg) (v : Word) : (s.setOperand r v).config = s.config := rfl
@[simp] theorem setOperand_busy (s : State) (r : OperandReg) (v : Word) : (s.setOperand r v).busy = s.busy := rfl
@[simp] theorem setOperand_done (s : State) (r : OperandReg) (v : Word) : (s.setOperand r v).done = s.done := rfl
@[simp] theorem setOperand_drop (s : State) (r : OperandReg) (v : Word) : (s.setOperand r v).drop = s.drop := rfl
@[simp] theorem setOperand_errcode (s : State) (r : OperandReg) (v : Word) : (s.setOperand r v).errcode = s.errcode := rfl
@[simp] theorem setOperand_lastop (s : State) (r : OperandReg) (v : Word) : (s.setOperand r v).lastop = s.lastop := rfl
@[simp] theorem setOperand_keyValid (s : State) (r : OperandReg) (v : Word) : (s.setOperand r v).keyValid = s.keyValid := rfl
@[simp] theorem setOperand_ie (s : State) (r : OperandReg) (v : Word) : (s.setOperand r v).ie = s.ie := rfl
@[simp] theorem setOperand_opr (s : State) (r : OperandReg) (v : Word) : (s.setOperand r v).opr = s.opr.set r v := rfl
@[simp] theorem setOperand_latch (s : State) (r : OperandReg) (v : Word) : (s.setOperand r v).latch = s.latch := rfl
@[simp] theorem setOperand_sched (s : State) (r : OperandReg) (v : Word) : (s.setOperand r v).sched = s.sched := rfl
@[simp] theorem setOperand_hsub (s : State) (r : OperandReg) (v : Word) : (s.setOperand r v).hsub = s.hsub := rfl
@[simp] theorem setOperand_buf (s : State) (r : OperandReg) (v : Word) : (s.setOperand r v).buf = s.buf := rfl
@[simp] theorem setOperand_faults (s : State) (r : OperandReg) (v : Word) : (s.setOperand r v).faults = s.faults := rfl
@[simp] theorem setOperand_script (s : State) (r : OperandReg) (v : Word) : (s.setOperand r v).script = s.script := rfl
@[simp] theorem setOperand_responses (s : State) (r : OperandReg) (v : Word) : (s.setOperand r v).responses = s.responses := rfl

/-! ### `State.writeStatus` -/

@[simp] theorem writeStatus_config (s : State) (v : Word) : (s.writeStatus v).config = s.config := rfl
@[simp] theorem writeStatus_busy (s : State) (v : Word) : (s.writeStatus v).busy = s.busy := rfl
@[simp] theorem writeStatus_done (s : State) (v : Word) : (s.writeStatus v).done = (s.done && !v.getLsbD 1) := rfl
@[simp] theorem writeStatus_drop (s : State) (v : Word) : (s.writeStatus v).drop = (s.drop && !v.getLsbD 4) := rfl
@[simp] theorem writeStatus_errcode (s : State) (v : Word) : (s.writeStatus v).errcode = s.errcode := rfl
@[simp] theorem writeStatus_lastop (s : State) (v : Word) : (s.writeStatus v).lastop = s.lastop := rfl
@[simp] theorem writeStatus_keyValid (s : State) (v : Word) : (s.writeStatus v).keyValid = s.keyValid := rfl
@[simp] theorem writeStatus_ie (s : State) (v : Word) : (s.writeStatus v).ie = s.ie := rfl
@[simp] theorem writeStatus_opr (s : State) (v : Word) : (s.writeStatus v).opr = s.opr := rfl
@[simp] theorem writeStatus_latch (s : State) (v : Word) : (s.writeStatus v).latch = s.latch := rfl
@[simp] theorem writeStatus_sched (s : State) (v : Word) : (s.writeStatus v).sched = s.sched := rfl
@[simp] theorem writeStatus_hsub (s : State) (v : Word) : (s.writeStatus v).hsub = s.hsub := rfl
@[simp] theorem writeStatus_buf (s : State) (v : Word) : (s.writeStatus v).buf = s.buf := rfl
@[simp] theorem writeStatus_faults (s : State) (v : Word) : (s.writeStatus v).faults = s.faults := rfl
@[simp] theorem writeStatus_script (s : State) (v : Word) : (s.writeStatus v).script = s.script := rfl
@[simp] theorem writeStatus_responses (s : State) (v : Word) : (s.writeStatus v).responses = s.responses := rfl

/-! ### `State.writeCtrl` -/

@[simp] theorem writeCtrl_config (s : State) (v : Word) : (s.writeCtrl v).config = s.config := rfl
@[simp] theorem writeCtrl_busy (s : State) (v : Word) : (s.writeCtrl v).busy = s.busy := rfl
@[simp] theorem writeCtrl_done (s : State) (v : Word) : (s.writeCtrl v).done = s.done := rfl
@[simp] theorem writeCtrl_drop (s : State) (v : Word) : (s.writeCtrl v).drop = s.drop := rfl
@[simp] theorem writeCtrl_errcode (s : State) (v : Word) : (s.writeCtrl v).errcode = s.errcode := rfl
@[simp] theorem writeCtrl_lastop (s : State) (v : Word) : (s.writeCtrl v).lastop = s.lastop := rfl
@[simp] theorem writeCtrl_keyValid (s : State) (v : Word) : (s.writeCtrl v).keyValid = s.keyValid := rfl
@[simp] theorem writeCtrl_ie (s : State) (v : Word) : (s.writeCtrl v).ie = v.getLsbD 0 := rfl
@[simp] theorem writeCtrl_opr (s : State) (v : Word) : (s.writeCtrl v).opr = s.opr := rfl
@[simp] theorem writeCtrl_latch (s : State) (v : Word) : (s.writeCtrl v).latch = s.latch := rfl
@[simp] theorem writeCtrl_sched (s : State) (v : Word) : (s.writeCtrl v).sched = s.sched := rfl
@[simp] theorem writeCtrl_hsub (s : State) (v : Word) : (s.writeCtrl v).hsub = s.hsub := rfl
@[simp] theorem writeCtrl_buf (s : State) (v : Word) : (s.writeCtrl v).buf = s.buf := rfl
@[simp] theorem writeCtrl_faults (s : State) (v : Word) : (s.writeCtrl v).faults = s.faults := rfl
@[simp] theorem writeCtrl_script (s : State) (v : Word) : (s.writeCtrl v).script = s.script := rfl
@[simp] theorem writeCtrl_responses (s : State) (v : Word) : (s.writeCtrl v).responses = s.responses := rfl

/-! ### `State.takeEvent` -/

@[simp] theorem takeEvent_config (s : State) : (s.takeEvent).config = s.config := rfl
@[simp] theorem takeEvent_busy (s : State) : (s.takeEvent).busy = s.busy := rfl
@[simp] theorem takeEvent_done (s : State) : (s.takeEvent).done = s.done := rfl
@[simp] theorem takeEvent_drop (s : State) : (s.takeEvent).drop = s.drop := rfl
@[simp] theorem takeEvent_errcode (s : State) : (s.takeEvent).errcode = s.errcode := rfl
@[simp] theorem takeEvent_lastop (s : State) : (s.takeEvent).lastop = s.lastop := rfl
@[simp] theorem takeEvent_keyValid (s : State) : (s.takeEvent).keyValid = s.keyValid := rfl
@[simp] theorem takeEvent_ie (s : State) : (s.takeEvent).ie = s.ie := rfl
@[simp] theorem takeEvent_opr (s : State) : (s.takeEvent).opr = s.opr := rfl
@[simp] theorem takeEvent_latch (s : State) : (s.takeEvent).latch = s.latch := rfl
@[simp] theorem takeEvent_sched (s : State) : (s.takeEvent).sched = s.sched := rfl
@[simp] theorem takeEvent_hsub (s : State) : (s.takeEvent).hsub = s.hsub := rfl
@[simp] theorem takeEvent_buf (s : State) : (s.takeEvent).buf = s.buf := rfl
@[simp] theorem takeEvent_faults (s : State) : (s.takeEvent).faults = s.faults := rfl
@[simp] theorem takeEvent_script (s : State) : (s.takeEvent).script = s.script.tail := rfl
@[simp] theorem takeEvent_responses (s : State) : (s.takeEvent).responses = s.responses := rfl

/-! ### Values at reset (10_state.md R44) -/

@[simp] theorem reset_config : State.reset.config = Config.default := rfl
@[simp] theorem reset_busy : State.reset.busy = false := rfl
@[simp] theorem reset_done : State.reset.done = false := rfl
@[simp] theorem reset_drop : State.reset.drop = false := rfl
@[simp] theorem reset_errcode : State.reset.errcode = .ok := rfl
@[simp] theorem reset_lastop : State.reset.lastop = 0#8 := rfl
@[simp] theorem reset_keyValid : State.reset.keyValid = false := rfl
@[simp] theorem reset_ie : State.reset.ie = false := rfl
@[simp] theorem reset_opr : State.reset.opr = OperandRegs.reset := rfl
@[simp] theorem reset_latch : State.reset.latch = 0#32 := rfl
@[simp] theorem reset_sched : State.reset.sched = Vector.replicate 60 0#32 := rfl
@[simp] theorem reset_hsub : State.reset.hsub = Vector.replicate 16 0#8 := rfl
@[simp] theorem reset_buf : State.reset.buf = [] := rfl
@[simp] theorem reset_faults : State.reset.faults = [] := rfl
@[simp] theorem reset_script : State.reset.script = [] := rfl
@[simp] theorem reset_responses : State.reset.responses = [] := rfl

/-! ### Operand registers -/

/-- A write is seen by the next read of the same register (10_state.md R28). -/
@[simp] theorem operandRegs_get_set_same (o : OperandRegs) (r : OperandReg) (v : Word) : (o.set r v).get r = v := by
  cases r <;> rfl

/-- A write leaves the other operand registers alone. -/
theorem operandRegs_get_set_other (o : OperandRegs) (r q : OperandReg) (v : Word) (h : q ≠ r) : (o.set r v).get q = o.get q := by
  cases r <;> cases q <;> first | rfl | exact absurd rfl h

/-- Operand registers are equal where all eight read the same. -/
theorem operandRegs_ext (o p : OperandRegs) (h : ∀ r, o.get r = p.get r) : o = p := by
  cases o; cases p
  simp only [OperandRegs.mk.injEq]
  exact ⟨h .srcAddr, h .srcLen, h .dstAddr, h .aadAddr, h .aadLen, h .nonceAddr, h .nonceLen, h .tagAddr⟩

end Sys2Proof.Machine
end

