-- ==== Sys2Proof/Laws/Memory.lean ====
section
/-!
SUPPORT. The laws of the buffer: a read after a write, the canonical form, and what reading and writing a string of bytes does
(20_memory.md R62, R63, R67, R68).
-/

namespace Sys2Proof.Machine

/-- A byte reads back as written. -/
@[simp] theorem memory_read_write_same (m : Memory) (x : Nat) (v : Byte) : Memory.read (Memory.write m x v) x = some v := by
  induction m with
  | nil => simp [Memory.write, Memory.read]
  | cons c m ih =>
    obtain ⟨a, b⟩ := c
    simp only [Memory.write]
    split
    · simp [Memory.read]
    · split
      · simp [Memory.read]
      · next h => simp [Memory.read, h, ih]

/-- A write leaves every other byte alone. -/
theorem memory_read_write_other (m : Memory) (x y : Nat) (v : Byte) (h : y ≠ x) :
    Memory.read (Memory.write m x v) y = Memory.read m y := by
  induction m with
  | nil => simp [Memory.write, Memory.read, h]
  | cons c m ih =>
    obtain ⟨a, b⟩ := c
    simp only [Memory.write]
    split
    · simp [Memory.read, h]
    · split
      · next hx => subst hx; simp [Memory.read, h]
      · simp [Memory.read, ih]

/-- The addresses listed after a write are the old ones and the one written. -/
theorem memory_mem_write (m : Memory) (x : Nat) (v : Byte) (c : Host.Cell) (h : c ∈ Memory.write m x v) : c = (x, v) ∨ c ∈ m := by
  induction m with
  | nil => simpa [Memory.write] using h
  | cons d m ih =>
    obtain ⟨a, b⟩ := d
    simp only [Memory.write] at h
    split at h
    · simpa using h
    · split at h
      · rcases List.mem_cons.1 h with h | h
        · exact .inl h
        · exact .inr (List.mem_cons_of_mem _ h)
      · rcases List.mem_cons.1 h with h | h
        · exact .inr (h ▸ List.mem_cons_self ..)
        · exact (ih h).imp id (List.mem_cons_of_mem _)

/-- A write keeps the canonical form. -/
theorem memory_wf_write (m : Memory) (x : Nat) (v : Byte) (h : Memory.wf m) : Memory.wf (Memory.write m x v) := by
  induction m with
  | nil => simp [Memory.write, Memory.wf]
  | cons d m ih =>
    obtain ⟨a, b⟩ := d
    obtain ⟨hd, hm⟩ := List.pairwise_cons.1 h
    simp only [Memory.write]
    split
    · next hx =>
      refine List.pairwise_cons.2 ⟨?_, h⟩
      intro c hc
      rcases List.mem_cons.1 hc with rfl | hc
      · exact hx
      · exact Nat.lt_trans hx (hd c hc)
    · split
      · next hx => subst hx; exact List.pairwise_cons.2 ⟨hd, hm⟩
      · next h1 h2 =>
        refine List.pairwise_cons.2 ⟨?_, ih hm⟩
        intro c hc
        rcases memory_mem_write _ _ _ _ hc with rfl | hc
        · simp only; omega
        · exact hd c hc

/-- In the canonical form, a cell is listed exactly when its address reads as its byte. -/
theorem memory_read_eq_some_iff (m : Memory) (h : Memory.wf m) (x : Nat) (v : Byte) : Memory.read m x = some v ↔ (x, v) ∈ m := by
  induction m with
  | nil => simp [Memory.read]
  | cons d m ih =>
    obtain ⟨a, b⟩ := d
    obtain ⟨hd, hm⟩ := List.pairwise_cons.1 h
    simp only [Memory.read, List.mem_cons, Prod.mk.injEq]
    split
    · next hx =>
      subst hx
      have : (x, v) ∉ m := fun hc => absurd (hd _ hc) (Nat.lt_irrefl _)
      simp [this, eq_comm]
    · next hx => simp [hx, ih hm]

/-- Two buffers in canonical form that read alike are the same data. -/
theorem memory_ext (m m' : Memory) (h : Memory.wf m) (h' : Memory.wf m') (hr : ∀ x, Memory.read m x = Memory.read m' x) :
    m = m' := by
  have hs : ∀ c, c ∈ m ↔ c ∈ m' := fun c => by
    rw [← Prod.mk.eta (p := c), ← memory_read_eq_some_iff m h, ← memory_read_eq_some_iff m' h', hr]
  refine List.Perm.eq_of_pairwise (le := fun c d => c.1 < d.1) ?_ h h' ?_
  · intro c d _ _ h1 h2; omega
  · refine (List.perm_ext_iff_of_nodup ?_ ?_).2 hs
    · exact h.imp fun hlt he => by rw [he] at hlt; exact Nat.lt_irrefl _ hlt
    · exact h'.imp fun hlt he => by rw [he] at hlt; exact Nat.lt_irrefl _ hlt

/-! ### Strings of bytes -/

/-- Writing a string leaves every byte outside it alone (20_memory.md R63). -/
theorem memory_read_writeBytes_outside (m : Memory) (a : Nat) (l : Bytes) (x : Nat) (h : x < a ∨ a + l.length ≤ x) :
    Memory.read (Memory.writeBytes m a l) x = Memory.read m x := by
  induction l generalizing m a with
  | nil => rfl
  | cons v l ih =>
    simp only [List.length_cons] at h
    rw [Memory.writeBytes, ih _ _ (by omega), memory_read_write_other _ _ _ _ (by omega)]

/-- Writing a string puts its bytes at a, a + 1, … (20_memory.md R63). -/
theorem memory_read_writeBytes_inside (m : Memory) (a : Nat) (l : Bytes) (k : Nat) (h : k < l.length) :
    Memory.read (Memory.writeBytes m a l) (a + k) = some l[k] := by
  induction l generalizing m a k with
  | nil => simp at h
  | cons v l ih =>
    rw [Memory.writeBytes]
    cases k with
    | zero =>
      rw [memory_read_writeBytes_outside _ _ _ _ (by omega)]
      simp
    | succ k =>
      have := ih (Memory.write m a v) (a + 1) k (by simpa using h)
      rw [show a + (k + 1) = a + 1 + k by omega, this]
      simp

/-- Writing a string keeps the canonical form. -/
theorem memory_wf_writeBytes (m : Memory) (a : Nat) (l : Bytes) (h : Memory.wf m) : Memory.wf (Memory.writeBytes m a l) := by
  induction l generalizing m a with
  | nil => exact h
  | cons v l ih => exact ih _ _ (memory_wf_write _ _ _ h)

/-- The cells listed after a string has been written are old ones or lie in the string. -/
theorem memory_mem_writeBytes (m : Memory) (a : Nat) (l : Bytes) (c : Host.Cell) (h : c ∈ Memory.writeBytes m a l) :
    c ∈ m ∨ (a ≤ c.1 ∧ c.1 < a + l.length) := by
  induction l generalizing m a with
  | nil => exact .inl h
  | cons v l ih =>
    rcases ih _ _ h with h | h
    · rcases memory_mem_write _ _ _ _ h with rfl | h
      · exact .inr (by simp)
      · exact .inl h
    · exact .inr (by simp only [List.length_cons]; omega)

/-- Everything a read of a string can answer: its bytes, all defined, or the first address that is not. -/
theorem memory_readBytes_cases (m : Memory) (a n : Nat) :
    (∃ l, Memory.readBytes m a n = .ok l ∧ l.length = n ∧ ∀ k (h : k < l.length), Memory.read m (a + k) = some l[k]) ∨
      (∃ k, k < n ∧ Memory.readBytes m a n = .error (.uninitRead (a + k)) ∧ Memory.read m (a + k) = none ∧
        ∀ j, j < k → (Memory.read m (a + j)).isSome) := by
  induction n generalizing a with
  | zero => exact .inl ⟨[], rfl, rfl, by simp⟩
  | succ n ih =>
    rw [Memory.readBytes]
    cases hb : Memory.read m a with
    | none => exact .inr ⟨0, by omega, rfl, hb, by omega⟩
    | some b =>
      rcases ih (a + 1) with ⟨l, hl, hn, hr⟩ | ⟨k, hk, he, hr, hj⟩
      · refine .inl ⟨b :: l, by simp [hl], by simp [hn], ?_⟩
        intro k hk
        cases k with
        | zero => simpa using hb
        | succ k => rw [show a + (k + 1) = a + 1 + k by omega, hr k (by simpa using hk)]; simp
      · refine .inr ⟨k + 1, by omega, ?_, ?_, ?_⟩
        · simp [he]; omega
        · rw [show a + (k + 1) = a + 1 + k by omega]; exact hr
        · intro j hlt
          cases j with
          | zero => simp [hb]
          | succ j => rw [show a + (j + 1) = a + 1 + j by omega]; exact hj j (by omega)

/-- A read of a string whose bytes are all defined answers them. -/
theorem memory_readBytes_of_read (m : Memory) (a : Nat) (l : Bytes)
    (h : ∀ k (hk : k < l.length), Memory.read m (a + k) = some l[k]) : Memory.readBytes m a l.length = .ok l := by
  induction l generalizing a with
  | nil => rfl
  | cons b l ih =>
    rw [List.length_cons, Memory.readBytes]
    have h0 := h 0 (by simp)
    simp only [Nat.add_zero, List.getElem_cons_zero] at h0
    rw [h0, ih (a + 1) (fun k hk => by
      have := h (k + 1) (by simpa using hk)
      rw [show a + 1 + k = a + (k + 1) by omega, this]; simp)]

/-- A read of a string depends only on the bytes of that string. -/
theorem memory_readBytes_congr (m m' : Memory) (a n : Nat) (h : ∀ k, k < n → Memory.read m (a + k) = Memory.read m' (a + k)) :
    Memory.readBytes m a n = Memory.readBytes m' a n := by
  induction n generalizing a with
  | zero => rfl
  | succ n ih =>
    have h0 := h 0 (by omega)
    simp only [Nat.add_zero] at h0
    rw [Memory.readBytes, Memory.readBytes, h0, ih (a + 1) (fun k hk => by
      rw [show a + 1 + k = a + (k + 1) by omega]; exact h (k + 1) (by omega))]

end Sys2Proof.Machine
end

