-- ==== Sys2Proof/Laws/Command.lean ====
section
/-!
SUPPORT. What a command can do, said once: `exec` is one shared operation over the command's operands and its body
(30_encoding.md R96), that operation has three outcomes, and a body writes only the buffer, or the instance (60_exceptions.md R266,
R267).
-/

namespace Sys2Proof.Machine

/-- The work of a command once its checks have passed. -/
def bodyOf (i : Instr) (s : State) : Except Fault (State × ResultCode) :=
  match i with
  | .keyexp => bodyKeyexp s
  | .enc => bodyEnc s
  | .dec => bodyDec s
  | .gcmEnc => bodyGcmEnc s
  | .gcmDec => bodyGcmDec s
  | .ghash => bodyGhash s
  | .gfmul8 => bodyGfmul8 s
  | .gfmul128 => bodyGfmul128 s

/-- Every command is the shared operation over its own operands and body. -/
theorem exec_eq_runCommand (i : Instr) (s : State) : exec i s = s.runCommand (operandsOf i s) (bodyOf i s) := by
  cases i <;> rfl

/-- Everything the shared operation can answer. -/
theorem runCommand_cases (s : State) (o : CommandOperands) (body : Except Fault (State × ResultCode)) :
    (s.checkOperands o ≠ .ok ∧ s.runCommand o body = .next (s.raise (s.checkOperands o))) ∨
      (s.checkOperands o = .ok ∧ ∃ t c, body = .ok (t, c) ∧ s.runCommand o body = .next (t.complete c)) ∨
      (s.checkOperands o = .ok ∧ ∃ f, body = .error f ∧ s.runCommand o body = .fault f) := by
  unfold State.runCommand
  cases hc : s.checkOperands o <;> try exact .inl ⟨by simp, rfl⟩
  cases body with
  | ok p => exact .inr (.inl ⟨rfl, p.1, p.2, rfl, rfl⟩)
  | error f => exact .inr (.inr ⟨rfl, f, rfl, rfl⟩)

/-- A command whose check fails answers the error and nothing else. -/
theorem runCommand_of_failed (s : State) (o : CommandOperands) (body : Except Fault (State × ResultCode)) (e : ResultCode)
    (h : s.checkOperands o = e) (he : e ≠ .ok) : s.runCommand o body = .next (s.raise e) := by
  unfold State.runCommand
  rw [h]
  cases e <;> first | rfl | exact absurd rfl he

/-- A command whose checks pass does its work. -/
theorem runCommand_of_ok (s : State) (o : CommandOperands) (t : State) (c : ResultCode) (h : s.checkOperands o = .ok) :
    s.runCommand o (.ok (t, c)) = .next (t.complete c) := by
  unfold State.runCommand
  rw [h]

/-- A read of a string the state holds. -/
theorem memRead_of_read (s : State) (a : Nat) (l : Bytes) (h : ∀ k (hk : k < l.length), Memory.read s.buf (a + k) = some l[k]) :
    s.memRead a l.length = .ok l := memory_readBytes_of_read _ _ _ h

/-- The length check's code is never `ok` and never the reserved code. -/
theorem operandsOf_lengthError (i : Instr) (s : State) (e : ResultCode) (h : (operandsOf i s).lengthError = some e) :
    e = .invalidKeyLength ∨ e = .invalidBlockLength ∨ e = .unsupportedNonceLength := by
  cases i <;> simp [operandsOf, operandsKeyexp, operandsEnc, operandsDec, operandsGcmEnc, operandsGcmDec, operandsGhash,
    operandsGfmul8, operandsGfmul128, State.keyLengthError, State.blockLengthError, State.nonceLengthError] at h <;> simp [← h.2]

/-- One string written, as a list of one. -/
theorem memWrite_eq_foldl (s : State) (a : Nat) (v : Bytes) :
    s.memWrite a v = { s with buf := [(a, v)].foldl (fun m p => Memory.writeBytes m p.1 p.2) s.buf } := rfl

/-- Two strings written, as a list of two. -/
theorem memWrite_memWrite_eq_foldl (s : State) (a b : Nat) (v w : Bytes) :
    (s.memWrite a v).memWrite b w =
      { s with buf := [(a, v), (b, w)].foldl (fun m p => Memory.writeBytes m p.1 p.2) s.buf } := rfl

/-- Everything a body can answer when it answers a state: a list of strings written to output regions, the code 0; or, for GCM_DEC,
nothing written and the code 3; or, for KEYEXP, a new instance from the 32 bytes it read. -/
theorem bodyOf_ok (i : Instr) (s t : State) (c : ResultCode) (h : bodyOf i s = .ok (t, c)) :
    (i ≠ .keyexp ∧ c = .ok ∧ ∃ ws : List (Nat × Bytes),
        (∀ p ∈ ws, (⟨p.1, p.2.length⟩ : Region) ∈ (operandsOf i s).outputs) ∧
        t = { s with buf := ws.foldl (fun m p => Memory.writeBytes m p.1 p.2) s.buf }) ∨
      (i = .gcmDec ∧ c = .authenticationFailure ∧ t = s) ∨
      (i = .keyexp ∧ c = .ok ∧ ∃ k w, s.memRead s.opr.srcAddr.toNat 32 = .ok k ∧ expand k = some w ∧
        t = s.install w (cipher w Block.zero)) := by
  cases i <;> simp only [bodyOf] at h
  case keyexp =>
    simp only [bodyKeyexp, bind, Except.bind] at h
    cases hk : s.memRead s.opr.srcAddr.toNat 32 with
    | error f => simp [hk] at h
    | ok k =>
      cases hw : expand k with
      | none => simp [hk, hw] at h
      | some w =>
        simp only [hk, hw, pure, Except.pure, Except.ok.injEq, Prod.mk.injEq] at h
        exact .inr (.inr ⟨rfl, h.2.symm, k, w, rfl, hw, h.1.symm⟩)
  case enc =>
    simp only [bodyEnc, bind, Except.bind] at h
    split at h
    · cases h
    · simp only [pure, Except.pure, Except.ok.injEq, Prod.mk.injEq] at h
      refine .inl ⟨by simp, h.2.symm, [(_, _)], ?_, h.1.symm.trans (memWrite_eq_foldl _ _ _)⟩
      simp [operandsOf, operandsEnc, CommandOperands.outputs, State.dstRegion]
  case dec =>
    simp only [bodyDec, bind, Except.bind] at h
    split at h
    · cases h
    · simp only [pure, Except.pure, Except.ok.injEq, Prod.mk.injEq] at h
      refine .inl ⟨by simp, h.2.symm, [(_, _)], ?_, h.1.symm.trans (memWrite_eq_foldl _ _ _)⟩
      simp [operandsOf, operandsDec, CommandOperands.outputs, State.dstRegion]
  case gcmEnc =>
    simp only [bodyGcmEnc, bind, Except.bind] at h
    split at h
    · cases h
    · next p hp =>
      split at h
      · cases h
      · split at h
        · cases h
        · simp only [pure, Except.pure, Except.ok.injEq, Prod.mk.injEq] at h
          refine .inl ⟨by simp, h.2.symm, [(_, _), (_, _)], ?_, h.1.symm.trans (memWrite_memWrite_eq_foldl _ _ _ _ _)⟩
          rcases memory_readBytes_cases s.buf s.opr.srcAddr.toNat s.opr.srcLen.toNat with ⟨l, hl, hn, -⟩ | ⟨k, -, he, -⟩
          · have : p = l := by simpa [State.memRead, hl] using hp.symm
            simp [operandsOf, operandsGcmEnc, CommandOperands.outputs, State.dstRegion, State.tagRegion, gcmAe, this, hn]
          · simp [State.memRead, he] at hp
  case gcmDec =>
    simp only [bodyGcmDec, bind, Except.bind] at h
    split at h
    · cases h
    · next p hp =>
      split at h
      · cases h
      · split at h
        · cases h
        · split at h
          · cases h
          · split at h
            · simp only [pure, Except.pure, Except.ok.injEq, Prod.mk.injEq] at h
              exact .inr (.inl ⟨rfl, h.2.symm, h.1.symm⟩)
            · next q hq =>
              simp only [pure, Except.pure, Except.ok.injEq, Prod.mk.injEq] at h
              refine .inl ⟨by simp, h.2.symm, [(_, _)], ?_, h.1.symm.trans (memWrite_eq_foldl _ _ _)⟩
              rcases memory_readBytes_cases s.buf s.opr.srcAddr.toNat s.opr.srcLen.toNat with ⟨l, hl, hn, -⟩ | ⟨k, -, he, -⟩
              · have hpl : p = l := by simpa [State.memRead, hl] using hp.symm
                have hlen : q.length = s.opr.srcLen.toNat := by
                  simp only [gcmAd] at hq
                  split at hq
                  · simp only [Option.some.injEq] at hq; rw [← hq, gctr_length, hpl, hn]
                  · cases hq
                simp [operandsOf, operandsGcmDec, CommandOperands.outputs, State.dstRegion, hlen]
              · simp [State.memRead, he] at hp
  case ghash =>
    simp only [bodyGhash, bind, Except.bind] at h
    split at h
    · cases h
    · split at h
      · cases h
      · simp only [pure, Except.pure, Except.ok.injEq, Prod.mk.injEq] at h
        refine .inl ⟨by simp, h.2.symm, [(_, _)], ?_, h.1.symm.trans (memWrite_eq_foldl _ _ _)⟩
        simp [operandsOf, operandsGhash, CommandOperands.outputs, State.dstRegion]
  case gfmul8 =>
    simp only [bodyGfmul8, bind, Except.bind] at h
    split at h
    · cases h
    · simp only [pure, Except.pure, Except.ok.injEq, Prod.mk.injEq] at h
      refine .inl ⟨by simp, h.2.symm, [(_, _)], ?_, h.1.symm.trans (memWrite_eq_foldl _ _ _)⟩
      simp [operandsOf, operandsGfmul8, CommandOperands.outputs, State.dstRegion]
  case gfmul128 =>
    simp only [bodyGfmul128, bind, Except.bind] at h
    split at h
    · cases h
    · simp only [pure, Except.pure, Except.ok.injEq, Prod.mk.injEq] at h
      refine .inl ⟨by simp, h.2.symm, [(_, _)], ?_, h.1.symm.trans (memWrite_eq_foldl _ _ _)⟩
      simp [operandsOf, operandsGfmul128, CommandOperands.outputs, State.dstRegion]

end Sys2Proof.Machine
end

