-- ==== Sys2Proof/Laws/Region.lean ====
section
/-!
SUPPORT. Regions by their bytes and by inequalities (20_memory.md R61).
-/

namespace Sys2Proof.Machine

/-- Two regions share no byte exactly when one is empty or one ends before the other begins. -/
theorem apart_iff (a n b m : Nat) : apart (a, n) (b, m) ↔ n = 0 ∨ m = 0 ∨ a + n ≤ b ∨ b + m ≤ a := by
  constructor
  · intro h
    by_contra hc
    have := h (max a b)
    simp only [inRegion] at this
    omega
  · intro h x hx
    simp only [inRegion] at hx
    omega

/-- The overlap test fails exactly on regions that share no byte. -/
theorem region_overlaps_eq_false_iff (r q : Region) : r.overlaps q = false ↔ apart (r.addr, r.len) (q.addr, q.len) := by
  rw [apart_iff, ← Bool.not_eq_true]
  simp only [Region.overlaps, Bool.and_eq_true, decide_eq_true_eq]
  omega

/-- The range test, as the statements spell it. -/
theorem region_inRange_iff (s : State) (r : Region) : r.inRange s.config.bufSize = true ↔ s.fits r.addr r.len := by
  simp [Region.inRange, State.fits]

/-- Every buffer has 64 to 2²⁰ bytes, and a multiple of 4 (00_scope.md R9). -/
theorem bufSize_bounds (c : Config) : 64 ≤ c.bufSize ∧ c.bufSize ≤ 2 ^ 20 ∧ c.bufSize % 4 = 0 := by
  obtain ⟨⟨k, hk⟩, v, e⟩ := c
  simp only [Config.bufSize]
  interval_cases k <;> decide

end Sys2Proof.Machine
end

