-- ==== Sys2Proof/Laws/Operands.lean ====
section
/-!
SUPPORT. The checks of a command against the operand table as the statements spell it (30_encoding.md R94, 60_exceptions.md R262 to
R265, R269), one lemma per check.
-/

namespace Sys2Proof.Machine

/-- All checks pass exactly when each of them does, where no length check answers the code 0. -/
theorem check_eq_ok_iff (o : CommandOperands) (n : Nat) (k : Bool) (hl : ∀ e, o.lengthError = some e → e ≠ .ok) :
    o.check n k = .ok ↔ (o.needsKey = true → k = true) ∧ o.lengthError = none ∧ o.inRange n = true ∧ o.clash = false := by
  unfold CommandOperands.check
  cases o.needsKey <;> cases k <;> cases h : o.lengthError <;> cases o.inRange n <;> cases o.clash <;> simp
  all_goals exact hl _ h

/-- No check answers the reserved code 4, where no length check does. -/
theorem check_ne_reserved (o : CommandOperands) (n : Nat) (k : Bool)
    (hl : ∀ e, o.lengthError = some e → e ≠ .internalInvariantViolation) : o.check n k ≠ .internalInvariantViolation := by
  unfold CommandOperands.check
  split
  · simp
  · split
    · next h => exact hl _ h
    · repeat' split
      all_goals simp

/-- The key check applies to the commands of the table's key column. -/
theorem operandsOf_needsKey_iff (i : Instr) (s : State) : (operandsOf i s).needsKey = true ↔ tableNeedsKey i := by
  cases i <;> simp [operandsOf, operandsKeyexp, operandsEnc, operandsDec, operandsGcmEnc, operandsGcmDec, operandsGhash,
    operandsGfmul8, operandsGfmul128, tableNeedsKey]

/-- The length check passes exactly when the table's length rule holds. -/
theorem operandsOf_lengthError_eq_none_iff (i : Instr) (s : State) :
    (operandsOf i s).lengthError = none ↔ tableLengthOk i s.opr := by
  cases i <;> simp [operandsOf, operandsKeyexp, operandsEnc, operandsDec, operandsGcmEnc, operandsGcmDec, operandsGhash,
    operandsGfmul8, operandsGfmul128, tableLengthOk, State.keyLengthError, State.blockLengthError, State.nonceLengthError]

/-- The overlap test holds exactly on regions that share a byte. -/
theorem region_overlaps_iff (r q : Region) : r.overlaps q = true ↔ ¬ apart (r.addr, r.len) (q.addr, q.len) := by
  rw [← region_overlaps_eq_false_iff, Bool.not_eq_false]

/-- The overlap check passes exactly when the table's overlap rule holds. -/
theorem operandsOf_clash_eq_false_iff (i : Instr) (s : State) : (operandsOf i s).clash = false ↔ tableNoClash i s.opr := by
  cases i <;> simp [operandsOf, operandsKeyexp, operandsEnc, operandsDec, operandsGcmEnc, operandsGcmDec, operandsGhash,
    operandsGfmul8, operandsGfmul128, CommandOperands.clash, anyOverlap, CommandOperands.primaryClash, CommandOperands.inputs,
    CommandOperands.outputs, tableNoClash, State.srcRegion, State.dstRegion, State.aadRegion, State.nonceRegion,
    State.tagRegion, -Bool.not_eq_true, region_overlaps_eq_false_iff, BitVec.toNat_eq, region_overlaps_iff]
  all_goals (by_cases hh : s.opr.dstAddr.toNat = s.opr.srcAddr.toNat <;> (try simp [hh]) <;> tauto)

/-- The input regions are the table's. -/
theorem operandsOf_mem_inputs_iff (i : Instr) (s : State) (r : Region) :
    r ∈ (operandsOf i s).inputs ↔ (r.addr, r.len) ∈ tableInputs i s.opr := by
  obtain ⟨a, n⟩ := r
  cases i <;> simp [operandsOf, operandsKeyexp, operandsEnc, operandsDec, operandsGcmEnc, operandsGcmDec, operandsGhash,
    operandsGfmul8, operandsGfmul128, CommandOperands.inputs, tableInputs, State.srcRegion, State.aadRegion, State.nonceRegion,
    State.tagRegion, or_comm]

/-- The output regions are the table's. -/
theorem operandsOf_mem_outputs_iff (i : Instr) (s : State) (r : Region) :
    r ∈ (operandsOf i s).outputs ↔ (r.addr, r.len) ∈ tableOutputs i s.opr := by
  obtain ⟨a, n⟩ := r
  cases i <;> simp [operandsOf, operandsKeyexp, operandsEnc, operandsDec, operandsGcmEnc, operandsGcmDec, operandsGhash,
    operandsGfmul8, operandsGfmul128, CommandOperands.outputs, tableOutputs, State.dstRegion, State.tagRegion]

/-- The range check passes exactly when every region of the table fits. -/
theorem operandsOf_inRange_iff (i : Instr) (s : State) :
    (operandsOf i s).inRange s.config.bufSize = true ↔
      ∀ r ∈ tableInputs i s.opr ++ tableOutputs i s.opr, s.fits r.1 r.2 := by
  simp only [CommandOperands.inRange, Bool.and_eq_true, List.all_eq_true, region_inRange_iff, List.mem_append]
  constructor
  · rintro ⟨h1, h2⟩ r (hr | hr)
    · exact h1 ⟨r.1, r.2⟩ ((operandsOf_mem_inputs_iff i s ⟨r.1, r.2⟩).2 hr)
    · exact h2 ⟨r.1, r.2⟩ ((operandsOf_mem_outputs_iff i s ⟨r.1, r.2⟩).2 hr)
  · intro h
    exact ⟨fun r hr => h _ (.inl ((operandsOf_mem_inputs_iff i s r).1 hr)),
      fun r hr => h _ (.inr ((operandsOf_mem_outputs_iff i s r).1 hr))⟩

/-- Everything `exec` can be when it answers a state: the code of a check that fails, or what the body gives. -/
theorem exec_next_cases (i : Instr) (s t : State) (h : exec i s = .next t) :
    (s.checkOperands (operandsOf i s) ≠ .ok ∧ t = s.ended (s.checkOperands (operandsOf i s))) ∨
      (s.checkOperands (operandsOf i s) = .ok ∧ ∃ t' c, bodyOf i s = .ok (t', c) ∧ t = t'.complete c) := by
  rw [exec_eq_runCommand] at h
  rcases runCommand_cases s (operandsOf i s) (bodyOf i s) with ⟨hc, h'⟩ | ⟨hc, t', c, hb, h'⟩ | ⟨hc, f, hb, h'⟩ <;> rw [h'] at h <;>
    cases h
  · exact .inl ⟨hc, rfl⟩
  · exact .inr ⟨hc, t', c, hb, rfl⟩

/-- A command whose checks pass and whose body answers a state and a code completes with that code. -/
theorem exec_of_body (i : Instr) (s t : State) (c : ResultCode) (hc : s.checkOperands (operandsOf i s) = .ok)
    (hb : bodyOf i s = .ok (t, c)) : exec i s = .next (t.complete c) := by
  rw [exec_eq_runCommand, hb, runCommand_of_ok _ _ _ _ hc]

/-- A command whose checks pass and whose body meets a model fault faults. -/
theorem exec_of_body_error (i : Instr) (s : State) (f : Fault) (hc : s.checkOperands (operandsOf i s) = .ok)
    (hb : bodyOf i s = .error f) : exec i s = .fault f := by
  rw [exec_eq_runCommand, hb]
  unfold State.runCommand
  rw [hc]

/-- Strings written one after another leave every byte outside them alone. -/
theorem memory_read_writeAll_outside (ws : List (Nat × Bytes)) (m : Memory) (x : Nat)
    (h : ∀ p ∈ ws, ¬ inRegion (p.1, p.2.length) x) :
    Memory.read (ws.foldl (fun m p => Memory.writeBytes m p.1 p.2) m) x = Memory.read m x := by
  induction ws generalizing m with
  | nil => rfl
  | cons p ws ih =>
    rw [List.foldl_cons, ih _ (fun q hq => h q (List.mem_cons_of_mem _ hq)), memory_read_writeBytes_outside]
    have := h p (List.mem_cons_self ..)
    simp only [inRegion] at this
    omega

/-- Strings that fit keep the buffer in canonical form and inside its size. -/
theorem memory_writeAll_ok (ws : List (Nat × Bytes)) (n : Nat) (m : Memory) (hm : Memory.wf m ∧ ∀ c ∈ m, c.1 < n)
    (h : ∀ p ∈ ws, p.2.length = 0 ∨ p.1 + p.2.length ≤ n) :
    Memory.wf (ws.foldl (fun m p => Memory.writeBytes m p.1 p.2) m) ∧
      ∀ c ∈ ws.foldl (fun m p => Memory.writeBytes m p.1 p.2) m, c.1 < n := by
  induction ws generalizing m with
  | nil => exact hm
  | cons p ws ih =>
    rw [List.foldl_cons]
    refine ih _ ⟨memory_wf_writeBytes _ _ _ hm.1, ?_⟩ fun q hq => h q (List.mem_cons_of_mem _ hq)
    intro c hc
    rcases memory_mem_writeBytes _ _ _ _ hc with h' | h'
    · exact hm.2 c h'
    · have := h p (List.mem_cons_self ..)
      omega

end Sys2Proof.Machine
end

