-- ==== Sys2Proof/Laws/Body.lean ====
section
/-!
SUPPORT. The work of each command once its checks have passed, from the strings it reads (40_field_and_roms.md R130,
41_key_expansion.md R156, 42_cipher.md R182, R183, 43_gcm.md R227, R229, R231, R232): one equation per command, so that no proof
unfolds a body.
-/

namespace Sys2Proof.Machine

/-- A string the state holds is what a read of it answers. -/
theorem memRead_of_holds (s : State) (a n : Nat) (l : Bytes) (h : s.holds a l) (hn : l.length = n) : s.memRead a n = .ok l := by
  subst hn
  exact memRead_of_read s a l h

/-- Everything a read can answer: the bytes the state holds there, or UninitRead of an undefined byte of the region. -/
theorem memRead_cases (s : State) (a n : Nat) :
    (∃ l, s.memRead a n = .ok l ∧ l.length = n ∧ s.holds a l) ∨
      (∃ x, inRegion (a, n) x ∧ s.memRead a n = .error (.uninitRead x) ∧ Memory.read s.buf x = none) := by
  rcases memory_readBytes_cases s.buf a n with ⟨l, h1, h2, h3⟩ | ⟨k, hk, he, hr, -⟩
  · exact .inl ⟨l, h1, h2, h3⟩
  · exact .inr ⟨a + k, by simp only [inRegion]; omega, he, hr⟩

/-- A string just written is held. -/
theorem holds_of_buf_eq_writeBytes (s : State) (m : Memory) (a : Nat) (l : Bytes) (h : s.buf = Memory.writeBytes m a l) :
    s.holds a l := by
  intro k hk
  rw [h]
  exact memory_read_writeBytes_inside _ _ _ _ hk

/-- A byte of a string the state holds. -/
theorem read_of_holds (s : State) (a : Nat) (l : Bytes) (x : Nat) (h : s.holds a l) (h1 : a ≤ x) (h2 : x < a + l.length) :
    Memory.read s.buf x = some (l[x - a]'(by omega)) := by
  have := h (x - a) (by omega)
  rwa [show a + (x - a) = x by omega] at this

/-- RCON has a word at every index from 0 to 31 (40_field_and_roms.md R128). -/
theorem rcon_isSome (j : Nat) (h : j < 32) : ∃ r, rcon j = some r := by
  interval_cases j <;> exact ⟨_, rfl⟩

/-- The loop never meets an Rcon index outside the table below index 256. -/
theorem expandLoop_isSome (is : List Nat) (h : ∀ i ∈ is, i < 256) (ws : List Word) : ∃ ws', expandLoop ws is = some ws' := by
  induction is generalizing ws with
  | nil => exact ⟨ws, rfl⟩
  | cons i is ih =>
    obtain ⟨r, hr⟩ := rcon_isSome (i / 8) (by have := h i (List.mem_cons_self ..); omega)
    obtain ⟨t, ht⟩ : ∃ t, expandTemp i (ws.getD 0 0#32) = some t := by
      simp only [expandTemp, hr]
      split
      · exact ⟨_, rfl⟩
      · split <;> exact ⟨_, rfl⟩
    rw [expandLoop, expandStep, ht]
    exact ih (fun j hj => h j (List.mem_cons_of_mem _ hj)) _

/-- Expand always answers a schedule (41_key_expansion.md R154). -/
theorem expand_isSome (k : Bytes) : ∃ w, expand k = some w := by
  obtain ⟨ws, h⟩ := expandLoop_isSome (List.range' 8 52) (by intro i hi; simp at hi; omega)
    ((List.range 8).map (keyWord k)).reverse
  exact ⟨_, by rw [expand, h]⟩

theorem bodyKeyexp_of_read (s : State) (k : Bytes) (w : Schedule) (hk : s.memRead s.opr.srcAddr.toNat 32 = .ok k)
    (hw : expand k = some w) : bodyOf .keyexp s = .ok (s.install w (cipher w Block.zero), .ok) := by
  simp only [bodyOf, bodyKeyexp, hk, hw, bind, Except.bind, pure, Except.pure]

theorem bodyEnc_of_read (s : State) (p : Bytes) (hp : s.memRead s.opr.srcAddr.toNat 16 = .ok p) :
    bodyOf .enc s = .ok (s.memWrite s.opr.dstAddr.toNat (cipher s.sched (Block.ofBytes p)).toList, .ok) := by
  simp only [bodyOf, bodyEnc, hp, bind, Except.bind, pure, Except.pure, Block.toBytes]

theorem bodyDec_of_read (s : State) (c : Bytes) (hc : s.memRead s.opr.srcAddr.toNat 16 = .ok c) :
    bodyOf .dec s = .ok (s.memWrite s.opr.dstAddr.toNat (invCipher s.sched (Block.ofBytes c)).toList, .ok) := by
  simp only [bodyOf, bodyDec, hc, bind, Except.bind, pure, Except.pure, Block.toBytes]

theorem bodyGcmEnc_of_read (s : State) (n p a : Bytes) (hp : s.memRead s.opr.srcAddr.toNat s.opr.srcLen.toNat = .ok p)
    (ha : s.memRead s.opr.aadAddr.toNat s.opr.aadLen.toNat = .ok a) (hn : s.memRead s.opr.nonceAddr.toNat 12 = .ok n) :
    bodyOf .gcmEnc s =
      .ok ((s.memWrite s.opr.dstAddr.toNat (gcmAe s.sched s.hsub n p a).1).memWrite s.opr.tagAddr.toNat
        (gcmAe s.sched s.hsub n p a).2.toList, .ok) := by
  simp only [bodyOf, bodyGcmEnc, hp, ha, hn, bind, Except.bind, pure, Except.pure, Block.toBytes]

theorem bodyGcmDec_of_read (s : State) (n c a : Bytes) (t : Block)
    (hc : s.memRead s.opr.srcAddr.toNat s.opr.srcLen.toNat = .ok c)
    (ha : s.memRead s.opr.aadAddr.toNat s.opr.aadLen.toNat = .ok a) (hn : s.memRead s.opr.nonceAddr.toNat 12 = .ok n)
    (ht : s.memRead s.opr.tagAddr.toNat 16 = .ok t.toList) :
    bodyOf .gcmDec s =
      .ok (if tagOf s.sched s.hsub n a c = t then
        (s.memWrite s.opr.dstAddr.toNat (gctr s.sched (initialCounter n) c), .ok) else (s, .authenticationFailure)) := by
  simp only [bodyOf, bodyGcmDec, hc, ha, hn, ht, bind, Except.bind, pure, Except.pure, block_ofBytes_toList, gcmAd, ctEqual,
    decide_eq_true_eq]
  generalize tagOf s.sched s.hsub n a c = q
  by_cases hq : q = t
  · simp only [if_pos hq]
  · simp only [if_neg hq]

theorem bodyGhash_of_read (s : State) (a c : Bytes) (ha : s.memRead s.opr.aadAddr.toNat s.opr.aadLen.toNat = .ok a)
    (hc : s.memRead s.opr.srcAddr.toNat s.opr.srcLen.toNat = .ok c) :
    bodyOf .ghash s = .ok (s.memWrite s.opr.dstAddr.toNat (ghash s.hsub a c).toList, .ok) := by
  simp only [bodyOf, bodyGhash, ha, hc, bind, Except.bind, pure, Except.pure, Block.toBytes]

theorem bodyGfmul8_of_read (s : State) (x : Bytes) (hx : s.memRead s.opr.srcAddr.toNat 2 = .ok x) :
    bodyOf .gfmul8 s =
      .ok (s.memWrite s.opr.dstAddr.toNat [gmul (x.getD 0 0x00#8) (x.getD 1 0x00#8)], .ok) := by
  simp only [bodyOf, bodyGfmul8, hx, bind, Except.bind, pure, Except.pure]

theorem bodyGfmul128_of_read (s : State) (x y : Block)
    (h : s.memRead s.opr.srcAddr.toNat 32 = .ok (x.toList ++ y.toList)) :
    bodyOf .gfmul128 s = .ok (s.memWrite s.opr.dstAddr.toNat (gfmul128 x y).toList, .ok) := by
  have h1 : (x.toList ++ y.toList).take 16 = x.toList := by
    rw [List.take_append_of_le_length (by simp), List.take_of_length_le (by simp)]
  have h2 : (x.toList ++ y.toList).drop 16 = y.toList := by
    rw [List.drop_append_of_le_length (by simp), List.drop_eq_nil_of_le (by simp), List.nil_append]
  simp only [bodyOf, bodyGfmul128, h, bind, Except.bind, pure, Except.pure, Block.toBytes, h1, h2, block_ofBytes_toList]

end Sys2Proof.Machine
end

