-- ==== Sys2Proof/Laws/Step.lean ====
section
/-!
SUPPORT. What a step can do, said once: which event it takes and what that event does (00_scope.md R11, R12), and every register a
host transaction can touch (20_memory.md R72).
-/

namespace Sys2Proof.Machine

/-- A step with the script exhausted is the engine's turn. -/
theorem step_of_nil (s : State) (h : s.script = []) : step s = engineTurn s := by simp [step, h]

/-- A step with an event left is that event, taken off the script. -/
theorem step_of_cons (s : State) (e : Event) (rest : List Event) (h : s.script = e :: rest) :
    step s = runEvent e { s with script := rest } := by
  simp [step, h, State.takeEvent]

/-- Everything a step can be. -/
theorem step_cases (s : State) :
    (s.script = [] ∧ step s = engineTurn s) ∨
      (∃ rest, s.script = .engine :: rest ∧ step s = engineTurn { s with script := rest }) ∨
      (∃ tx rest, s.script = .host tx :: rest ∧ step s = hostStep tx { s with script := rest }) ∨
      (∃ rest, s.script = .reset :: rest ∧ step s = .next (State.resetEngine { s with script := rest })) := by
  cases h : s.script with
  | nil => exact .inl ⟨rfl, step_of_nil s h⟩
  | cons e rest =>
    have hs := step_of_cons s e rest h
    cases e with
    | engine => exact .inr (.inl ⟨rest, rfl, hs⟩)
    | host tx => exact .inr (.inr (.inl ⟨tx, rest, rfl, hs⟩))
    | reset => exact .inr (.inr (.inr ⟨rest, rfl, hs⟩))

/-- A host write of a register leaves everything alone but the fields its register has an effect on. -/
theorem writeReg_frame (s : State) (r : RegName) (v : Word) :
    (s.writeReg r v).config = s.config ∧ (s.writeReg r v).keyValid = s.keyValid ∧ (s.writeReg r v).sched = s.sched ∧
      (s.writeReg r v).hsub = s.hsub ∧ (s.writeReg r v).buf = s.buf ∧ (s.writeReg r v).faults = s.faults ∧
      (s.writeReg r v).script = s.script ∧ (s.writeReg r v).responses = s.responses := by
  cases r with
  | cmd => simp only [State.writeReg]; split <;> exact ⟨rfl, rfl, rfl, rfl, rfl, rfl, rfl, rfl⟩
  | operand r => simp only [State.writeReg]; split <;> exact ⟨rfl, rfl, rfl, rfl, rfl, rfl, rfl, rfl⟩
  | status => exact ⟨rfl, rfl, rfl, rfl, rfl, rfl, rfl, rfl⟩
  | ctrl => exact ⟨rfl, rfl, rfl, rfl, rfl, rfl, rfl, rfl⟩
  | caps => exact ⟨rfl, rfl, rfl, rfl, rfl, rfl, rfl, rfl⟩
  | sched i => exact ⟨rfl, rfl, rfl, rfl, rfl, rfl, rfl, rfl⟩
  | hsub k => exact ⟨rfl, rfl, rfl, rfl, rfl, rfl, rfl, rfl⟩
  | reserved => exact ⟨rfl, rfl, rfl, rfl, rfl, rfl, rfl, rfl⟩

/-- Everything a host write can do: nothing, the effect of a register write, a dropped buffer write, or a string stored in the
buffer window while no command runs. -/
theorem hostWrite_cases (s : State) (off : Word) (d : HostData) :
    s.hostWrite off d = (s, .busErr) ∨
      (∃ v, d = .b4 v ∧ off.toNat ≤ 0xFFF ∧ off.toNat % 4 = 0 ∧
        s.hostWrite off d = (s.writeReg (decodeRegister off.toNat) v, .okayWrite)) ∨
      (s.busy = true ∧ s.hostWrite off d = (s.dropWrite, .busErr)) ∨
      (s.busy = false ∧ ∃ a, off.toNat = 0x10000 + a ∧ a < s.config.bufSize ∧ a % d.size.bytes = 0 ∧
        s.hostWrite off d = (s.memWrite a d.toBytes, .okayWrite)) := by
  simp only [State.hostWrite, decodeWindow]
  by_cases h1 : off.toNat ≤ 0xFFF
  · simp only [h1, if_true]
    cases d with
    | b1 v => exact .inl rfl
    | b2 v => exact .inl rfl
    | b4 v =>
      by_cases h2 : off.toNat % 4 = 0
      · exact .inr (.inl ⟨v, rfl, trivial, h2, by simp [h2]⟩)
      · exact .inl (by simp [h2])
  · simp only [h1, if_false]
    by_cases h2 : 0x10000 ≤ off.toNat ∧ off.toNat < 0x10000 + s.config.bufSize
    · simp only [h2, and_self, if_true]
      cases hb : s.busy with
      | true => exact .inr (.inr (.inl ⟨rfl, rfl⟩))
      | false =>
        by_cases h3 : (off.toNat - 0x10000) % d.size.bytes = 0
        · exact .inr (.inr (.inr ⟨rfl, off.toNat - 0x10000, by omega, by omega, h3, by simp [h3]⟩))
        · exact .inl (by simp [h3])
    · exact .inl (by simp [h2])

/-- A host transaction that answers a state hands the host one response; a read does nothing else (20_memory.md R72). -/
theorem hostStep_next (tx : HostTx) (s t : State) (h : hostStep tx s = .next t) :
    (∃ off z r, tx = .read off z ∧ t = s.respond r) ∨
      (∃ off d, tx = .write off d ∧ t = (s.hostWrite off d).1.respond (s.hostWrite off d).2) := by
  cases tx with
  | read off z =>
    simp only [hostStep] at h
    split at h
    · next r _ => exact .inl ⟨off, z, r, rfl, by cases h; rfl⟩
    · cases h
  | write off d => exact .inr ⟨off, d, rfl, by cases h; rfl⟩

end Sys2Proof.Machine
end

