-- ==== Sys2Proof/Laws/HostPort.lean ====
section
/-!
SUPPORT. The decode of the host window and of the register window (20_memory.md R65, 10_state.md R22), the bytes of host data
(20_memory.md R67, R68), and what the engine's turn and a host write can do.
-/

namespace Sys2Proof.Machine

/-- An offset of the buffer window. -/
theorem decodeWindow_buffer (c : Config) (a : Nat) (h : a < c.bufSize) :
    decodeWindow c (BitVec.ofNat 32 (0x10000 + a)) = .buffer a := by
  have := bufSize_bounds c
  have e : (BitVec.ofNat 32 (0x10000 + a)).toNat = 0x10000 + a := by rw [BitVec.toNat_ofNat]; omega
  simp only [decodeWindow, e]
  rw [if_neg (by omega), if_pos (by omega), Nat.add_sub_cancel_left]

/-- From 0x030 on, the window holds SCHED, HSUB and reserved words only (10_state.md R22). -/
theorem decodeRegister_high (o : Nat) (h : 0x030 ≤ o) :
    decodeRegister o =
      if h : 0x100 ≤ o ∧ o < 0x1F0 then .sched ⟨(o - 0x100) / 4, by omega⟩
      else if h : 0x1F0 ≤ o ∧ o < 0x200 then .hsub ⟨(o - 0x1F0) / 4, by omega⟩
      else .reserved := by
  rw [decodeRegister, if_neg (by omega)]

/-- SCHED[i] is at 0x100 + 4i. -/
theorem decodeRegister_sched (i : Fin 60) : decodeRegister (0x100 + 4 * i.val) = .sched i := by
  rw [decodeRegister_high _ (by omega), dif_pos (by omega)]
  congr 1
  apply Fin.ext
  simp

/-- HSUB[k] is at 0x1F0 + 4k. -/
theorem decodeRegister_hsub (k : Fin 4) : decodeRegister (0x1F0 + 4 * k.val) = .hsub k := by
  rw [decodeRegister_high _ (by omega), dif_neg (by omega), dif_pos (by omega)]
  congr 1
  apply Fin.ext
  simp

/-- The reserved offsets. -/
theorem decodeRegister_reserved (o : Nat) (h : 0x030 ≤ o ∧ o < 0x100 ∨ 0x200 ≤ o) : decodeRegister o = .reserved := by
  rw [decodeRegister_high _ (by omega), dif_neg (by omega), dif_neg (by omega)]

/-- Below 0x30 only an aligned offset is a register of its own. -/
theorem decodeRegister_eq_status_iff (o : Nat) : decodeRegister o = .status ↔ o = 0x004 := by
  constructor
  · intro h
    by_cases hl : o < 0x030
    · interval_cases o <;> first | rfl | exact absurd h (by decide)
    · rw [decodeRegister_high _ (by omega)] at h
      by_cases h1 : 0x100 ≤ o ∧ o < 0x1F0
      · rw [dif_pos h1] at h
        cases h
      · rw [dif_neg h1] at h
        by_cases h2 : 0x1F0 ≤ o ∧ o < 0x200
        · rw [dif_pos h2] at h
          cases h
        · rw [dif_neg h2] at h
          cases h
  · rintro rfl
    rfl

/-! ### Host data -/

/-- Host data has as many bytes as its size says. -/
@[simp] theorem hostData_toBytes_length (d : HostData) : d.toBytes.length = d.size.bytes := by cases d <;> rfl

/-- Byte k of host data, k = 0 the most significant (20_memory.md R68). -/
theorem hostData_toBytes_getElem (d : HostData) (k : Nat) (h : k < d.toBytes.length) :
    d.toBytes[k] = byteOfValue d.size.bytes d.toNat k := by
  have e : ∀ (w : Nat) (v : BitVec w) (s : Nat), BitVec.extractLsb' s 8 v = BitVec.ofNat 8 (v.toNat / 2 ^ s) := by
    intro w v s
    apply BitVec.eq_of_toNat_eq
    simp [Nat.shiftRight_eq_div_pow]
  cases d with
  | b1 v =>
    simp [HostData.toBytes] at h
    subst h
    simp [HostData.toBytes, byteOfValue, HostData.size, AccessSize.bytes, HostData.toNat]
  | b2 v =>
    simp [HostData.toBytes] at h
    interval_cases k <;> simp only [HostData.toBytes, byteOfValue, HostData.size, AccessSize.bytes, HostData.toNat] <;>
      exact e _ _ _
  | b4 v =>
    simp [HostData.toBytes] at h
    interval_cases k <;> simp only [HostData.toBytes, byteOfValue, HostData.size, AccessSize.bytes, HostData.toNat] <;>
      exact e _ _ _

/-- Host data made of bytes has those bytes (20_memory.md R67). -/
theorem hostData_ofBytes (z : AccessSize) (l : Bytes) (h : l.length = z.bytes) :
    (HostData.ofBytes z l).size = z ∧ (HostData.ofBytes z l).toBytes = l := by
  cases z <;> simp only [AccessSize.bytes] at h
  · match l, h with
    | [a], _ => exact ⟨rfl, rfl⟩
  · match l, h with
    | [a, b], _ =>
      refine ⟨rfl, ?_⟩
      simp [HostData.ofBytes, HostData.toBytes]
      constructor <;> apply BitVec.eq_of_getLsbD_eq <;> intro i hi <;> interval_cases i <;> simp [be16]
  · match l, h with
    | [a, b, c, d], _ =>
      refine ⟨rfl, ?_⟩
      obtain ⟨h1, h2, h3, h4⟩ := wordByte_be32 a b c d
      simp [HostData.ofBytes, HostData.toBytes, wordBytes, h1, h2, h3, h4]

/-! ### The engine's turn and host writes -/

/-- Everything the engine's turn can do when it answers a state (00_scope.md R11 (2), 30_encoding.md R96). -/
theorem engineTurn_next (s t : State) (h : engineTurn s = .next t) :
    (s.busy = false ∧ t = s) ∨
      (s.busy = true ∧ ((∃ i, decode s.latch = .ok i ∧ exec i s = .next t) ∨ t = s.ended .illegalCommand)) := by
  unfold engineTurn at h
  cases hb : s.busy with
  | false =>
    rw [hb] at h
    exact .inl ⟨rfl, by cases h; rfl⟩
  | true =>
    rw [hb] at h
    refine .inr ⟨rfl, ?_⟩
    simp only [if_true, engineStep] at h
    cases hd : decode s.latch with
    | ok i =>
      simp only [hd] at h
      exact .inl ⟨i, rfl, h⟩
    | error e =>
      simp only [hd] at h
      cases h
      exact .inr rfl

/-- What no host write changes. -/
theorem hostWrite_frame (s : State) (off : Word) (d : HostData) :
    (s.hostWrite off d).1.config = s.config ∧ (s.hostWrite off d).1.keyValid = s.keyValid ∧
      (s.hostWrite off d).1.sched = s.sched ∧ (s.hostWrite off d).1.hsub = s.hsub ∧
      (s.hostWrite off d).1.faults = s.faults := by
  rcases hostWrite_cases s off d with h | ⟨v, -, -, -, h⟩ | ⟨-, h⟩ | ⟨-, a, -, -, -, h⟩ <;> rw [h]
  · exact ⟨rfl, rfl, rfl, rfl, rfl⟩
  · obtain ⟨h1, h2, h3, h4, -, h5, -⟩ := writeReg_frame s (decodeRegister off.toNat) v
    exact ⟨h1, h2, h3, h4, h5⟩
  · exact ⟨rfl, rfl, rfl, rfl, rfl⟩
  · exact ⟨rfl, rfl, rfl, rfl, rfl⟩

/-- No host write ends a running command. -/
theorem hostWrite_busy (s : State) (off : Word) (d : HostData) (hb : s.busy = true) : (s.hostWrite off d).1.busy = true := by
  rcases hostWrite_cases s off d with h | ⟨v, -, -, -, h⟩ | ⟨-, h⟩ | ⟨-, a, -, -, -, h⟩ <;> rw [h]
  · exact hb
  · cases decodeRegister off.toNat <;> simp [State.writeReg, hb]
  · exact hb
  · exact hb

end Sys2Proof.Machine
end

