-- ==== Sys2Proof/Laws/PerInstr.lean ====
section
/-!
SUPPORT. One statement per command about its syntax: the word that encodes it is well-formed, and is the row of the opcode map
(30_encoding.md R91, R92).
-/

/-- The word of a command is well-formed: its RSVD is 0 and its OP is assigned. -/
def Sys2Proof.Laws.WordForm.Statement (i : Sys2Proof.Instr) : Prop :=
  Sys2Proof.Instr.wellFormed i = true ∧ Sys2Proof.wellFormedWord (Sys2Proof.encode i) = true

theorem Sys2Proof.Laws.WordForm.keyexp : Sys2Proof.Laws.WordForm.Statement .keyexp := by unfold Sys2Proof.Laws.WordForm.Statement; decide

theorem Sys2Proof.Laws.WordForm.enc : Sys2Proof.Laws.WordForm.Statement .enc := by unfold Sys2Proof.Laws.WordForm.Statement; decide

theorem Sys2Proof.Laws.WordForm.dec : Sys2Proof.Laws.WordForm.Statement .dec := by unfold Sys2Proof.Laws.WordForm.Statement; decide

theorem Sys2Proof.Laws.WordForm.gcmEnc : Sys2Proof.Laws.WordForm.Statement .gcmEnc := by unfold Sys2Proof.Laws.WordForm.Statement; decide

theorem Sys2Proof.Laws.WordForm.gcmDec : Sys2Proof.Laws.WordForm.Statement .gcmDec := by unfold Sys2Proof.Laws.WordForm.Statement; decide

theorem Sys2Proof.Laws.WordForm.ghash : Sys2Proof.Laws.WordForm.Statement .ghash := by unfold Sys2Proof.Laws.WordForm.Statement; decide

theorem Sys2Proof.Laws.WordForm.gfmul8 : Sys2Proof.Laws.WordForm.Statement .gfmul8 := by unfold Sys2Proof.Laws.WordForm.Statement; decide

theorem Sys2Proof.Laws.WordForm.gfmul128 : Sys2Proof.Laws.WordForm.Statement .gfmul128 := by unfold Sys2Proof.Laws.WordForm.Statement; decide
end

