-- ==== Sys2Proof/Tests/Slice0.lean ====
section
/-!
SUPPORT. Tests of one step or one function each. The expected results are the vectors of spec/95_test_vectors.md; each test names
its row there. After them, one witness for each statement that has hypotheses.
-/

namespace Sys2Proof.Tests

open Sys2Proof.Machine

/-- The `n` bytes of a number, most significant first. -/
def bytesOf (n v : Nat) : Bytes := (List.range n).map fun k => BitVec.ofNat 8 (v >>> (8 * (n - 1 - k)))

/-- The block of a number. -/
def blockOf (v : Nat) : Block := Block.ofBytes (bytesOf 16 v)

/-- The operand registers at the given values. -/
def regsOf (src srcLen dst : Nat) (aad : Nat := 0) (aadLen : Nat := 0) (nonce : Nat := 0) (nonceLen : Nat := 0) (tag : Nat := 0) :
    OperandRegs :=
  { srcAddr := BitVec.ofNat 32 src, srcLen := BitVec.ofNat 32 srcLen, dstAddr := BitVec.ofNat 32 dst,
    aadAddr := BitVec.ofNat 32 aad, aadLen := BitVec.ofNat 32 aadLen, nonceAddr := BitVec.ofNat 32 nonce,
    nonceLen := BitVec.ofNat 32 nonceLen, tagAddr := BitVec.ofNat 32 tag }

/-- A machine with the smallest buffer, 64 bytes, after reset, with the given key marks, registers and buffer. -/
def small (key : Bool) (o : OperandRegs) (m : Memory) : State :=
  { State.reset with config := { bufScale := 0, schedVisible := true, engineBase := 0 }, keyValid := key, opr := o, buf := m }

/-- `small` with the schedule of a key and the hash subkey `h`. -/
def keyed (k : Bytes) (h : Block) (o : OperandRegs) (m : Memory) : State :=
  { small true o m with
    sched := match expand k with
      | some w => w
      | none => Vector.replicate 60 0#32
    hsub := h }

/-- The machine with the next event scripted. -/
def withEvent (s : State) (e : Event) : State := { s with script := [e] }

/-- The outcome is a next state of which `p` holds. -/
def nextIs (o : Host.Outcome State Fault Refusal) (p : State → Bool) : Bool :=
  match o with
  | .next t => p t
  | .fault _ => false
  | .refused _ => false

/-- The outcome is this fault. -/
def faultIs (o : Host.Outcome State Fault Refusal) (f : Fault) : Bool :=
  match o with
  | .next _ => false
  | .fault g => decide (g = f)
  | .refused _ => false

/-- The state holds the `n` bytes of `v` at `a`. -/
def holdsNat (t : State) (a n v : Nat) : Bool :=
  (List.range n).all fun k => decide (Memory.read t.buf (a + k) = (bytesOf n v)[k]?)

/-- The command ended with a code and left the buffer as it was. -/
def endedWith (s : State) (c : ResultCode) (t : State) : Bool := decide (t.errcode = c) && decide (t.buf = s.buf)

/-- The key 00 01 … 1f of the worked example. -/
def key0 : Bytes := bytesOf 32 0x000102030405060708090a0b0c0d0e0f101112131415161718191a1b1c1d1e1f

/-- The key of spec/95 §1.1. -/
def key1 : Bytes := bytesOf 32 0x603deb1015ca71be2b73aef0857d77811f352c073b6108d72d9810a30914dff4

/-- The zero key. -/
def keyZero : Bytes := List.replicate 32 0x00#8

/-- H of the zero key (spec/95 §1.3). -/
def hZero : Block := blockOf 0xdc95c078a2408989ad48a21492842087

/-! ### Words: bits 31:8 RSVD, bits 7:0 OP (30_encoding.md R90, R91, R92) -/

theorem test_decode_keyexp : decode 0b00000000000000000000000000000001#32 = .ok .keyexp := by decide

theorem test_decode_enc : decode 0b00000000000000000000000000000010#32 = .ok .enc := by decide

theorem test_decode_dec : decode 0b00000000000000000000000000000011#32 = .ok .dec := by decide

theorem test_decode_gcm_enc : decode 0b00000000000000000000000000000100#32 = .ok .gcmEnc := by decide

theorem test_decode_gcm_dec : decode 0b00000000000000000000000000000101#32 = .ok .gcmDec := by decide

theorem test_decode_ghash : decode 0b00000000000000000000000000000110#32 = .ok .ghash := by decide

theorem test_decode_gfmul8 : decode 0b00000000000000000000000000000111#32 = .ok .gfmul8 := by decide

theorem test_decode_gfmul128 : decode 0b00000000000000000000000000001000#32 = .ok .gfmul128 := by decide

/-- Ill-formed: bit 8, the lowest reserved bit, and bit 31, the highest one, on top of legal codes. -/
theorem test_illformed_reserved_bits :
    rsvdClear 0x00000101#32 = false ∧ wellFormedWord 0x00000101#32 = false ∧ wellFormedWord 0x80000002#32 = false := by decide

/-- Ill-formed: the unassigned codes 0x00, 0x09 and 0xFF. -/
theorem test_illformed_operation_codes :
    opAssigned 0x00000000#32 = false ∧ wellFormedWord 0x00000000#32 = false ∧ wellFormedWord 0x00000009#32 = false ∧
      wellFormedWord 0x000000FF#32 = false := by decide

theorem test_decode_refuses_reserved : decode 0x00000202#32 = .error .reservedNotZero := by decide

theorem test_decode_refuses_unassigned :
    decode 0x00000000#32 = .error .unassignedOp ∧ decode 0x00000009#32 = .error .unassignedOp ∧
      decode 0x000000FF#32 = .error .unassignedOp := by decide

theorem test_table_word : decodeTableWord 32 5 = some .gcmDec ∧ decodeTableWord 32 0x101 = none := by decide

/-- The first command after reset: GCM_ENC without a key ends with NoKey (spec/95 X11), in the very next step. -/
theorem test_fetch_word_runs_next :
    nextIs (step (State.reset.withFetchWord 32 4)) (fun t => decide (t.status = 0x00040606#32)) = true := by decide

/-- An illegal word is accepted and ends with code 5 (spec/95 Q6, Q7). -/
theorem test_illegal_word :
    (State.reset.withFetchWord 32 0x55).status = 0x00550001#32 ∧
      nextIs (step (State.reset.withFetchWord 32 0x55)) (fun t => decide (t.status = 0x00550506#32)) = true := by decide

/-- The field values of the result codes (60_exceptions.md R260). -/
theorem test_result_code_bits :
    [ResultCode.ok, .invalidKeyLength, .invalidBlockLength, .authenticationFailure, .internalInvariantViolation, .illegalCommand,
      .noKey, .unsupportedNonceLength, .rangeError, .overlapError].map ResultCode.bits =
      [0#4, 1#4, 2#4, 3#4, 4#4, 5#4, 6#4, 7#4, 8#4, 9#4] := by decide

/-! ### Field arithmetic and ROMs -/

/-- spec/95 §2.1. -/
theorem test_gmul_products :
    gmul 0x57#8 0x83#8 = 0xc1#8 ∧ gmul 0x57#8 0x13#8 = 0xfe#8 ∧ gmul 0x02#8 0x80#8 = 0x1b#8 ∧ gmul 0xff#8 0xff#8 = 0x13#8 := by
  decide +kernel

/-- spec/95 §2.2. -/
theorem test_sbox_entries :
    sbox 0x53#8 = 0xed#8 ∧ sbox 0x9a#8 = 0xb8#8 ∧ invSbox 0x00#8 = 0x52#8 ∧ invSbox 0xff#8 = 0x7d#8 ∧ invSbox 0xc9#8 = 0x12#8 := by
  decide +kernel

/-- spec/95 §2.4: RCON[1], RCON[7], RCON[9]; none outside the table. -/
theorem test_rcon_entries :
    rcon 1 = some 0x01000000#32 ∧ rcon 7 = some 0x40000000#32 ∧ rcon 9 = some 0x1b000000#32 ∧ rcon 32 = none := by
  decide +kernel

/-- spec/95 §3.3: the shifts of 000102…0f. -/
theorem test_shift_rows :
    store (shiftRows (load (blockOf 0x000102030405060708090a0b0c0d0e0f))) = blockOf 0x00050a0f04090e03080d02070c01060b ∧
      store (invShiftRows (load (blockOf 0x000102030405060708090a0b0c0d0e0f))) =
        blockOf 0x000d0a0704010e0b0805020f0c090603 := by
  decide +kernel

/-- spec/95 §3.3: four columns of MixColumns at once, and back. -/
theorem test_mix_columns :
    store (mixColumns (load (blockOf 0xdb135345f20a225cd4d4d4d52d26314c))) = blockOf 0x8e4da1bc9fdc589dd5d5d7d64d7ebdf8 ∧
      store (invMixColumns (load (blockOf 0x8e4da1bc9fdc589dd5d5d7d64d7ebdf8))) = blockOf 0xdb135345f20a225cd4d4d4d52d26314c := by
  decide +kernel

/-- spec/95 §1.3: W[8] and W[59] of the key 000102…1f. -/
theorem test_key_schedule :
    ((expand key0).map fun w => (w[8], w[12], w[59])) = some (0xa573c29f#32, 0x1651a8cd#32, 0x6d68de36#32) := by
  decide +kernel

/-- spec/95 §4.1: α¹²⁷ • α and α¹²⁷ • α¹²⁷. -/
theorem test_gfmul128_reduction :
    gfmul128 (blockOf 1) (blockOf 0x40000000000000000000000000000000) = blockOf 0xe1000000000000000000000000000000 ∧
      gfmul128 (blockOf 1) (blockOf 1) = blockOf 0xe6080000000000000000000000000003 := by
  decide +kernel

/-- GHASH pads the AAD and the ciphertext apart: one byte of each gives three blocks (43_gcm.md R220, by hand). -/
theorem test_ghash_blocks :
    ghashBlocks [0xAA#8] [0xCC#8] =
      [bytesOf 16 0xAA000000000000000000000000000000, bytesOf 16 0xCC000000000000000000000000000000,
        bytesOf 16 0x00000000000000080000000000000008] := by decide

/-- spec/95 §5.1: J0, and inc32 at its carries and at its wrap. -/
theorem test_counter_blocks :
    initialCounter (bytesOf 12 0xcafebabefacedbaddecaf888) = blockOf 0xcafebabefacedbaddecaf88800000001 ∧
      inc32 (blockOf 0xcafebabefacedbaddecaf888000000ff) = blockOf 0xcafebabefacedbaddecaf88800000100 ∧
      inc32 (blockOf 0xffffffffffffffffffffffffffffffff) = blockOf 0xffffffffffffffffffffffff00000000 := by
  decide +kernel

/-! ### Commands, at most two tests each -/

/-- spec/95 K1: STATUS, W[59] and H of the key of §1.1. -/
theorem test_keyexp :
    nextIs (step ((small false (regsOf 0 32 0) (Memory.writeBytes [] 0 key1)).withFetchWord 32 1))
      (fun t => decide (t.status = 0x0001000A#32) && decide (t.sched[59] = 0x706c631e#32) &&
        decide (t.hsub = blockOf 0xe568f68194cf76d6174d4cc04310a854)) = true := by
  decide +kernel

/-- spec/95 K9: no wrap-around. -/
theorem test_keyexp_out_of_range :
    nextIs (exec .keyexp (small false (regsOf 0xFFFFFFF0 32 0) (Memory.writeBytes [] 0 key1)))
      (fun t => decide (t.errcode = .rangeError) && decide (t.keyValid = false)) = true := by
  decide +kernel

/-- The machine of spec/95 §3.5 in the smallest buffer: the plaintext at 0x00, the ciphertext at 0x10. -/
def blocks35 (o : OperandRegs) : State :=
  keyed key0 Block.zero o
    (Memory.writeBytes (Memory.writeBytes [] 0 (bytesOf 16 0x00112233445566778899aabbccddeeff)) 16
      (bytesOf 16 0x8ea2b7ca516745bfeafc49904b496089))

/-- spec/95 E12: the last sixteen bytes as destination. -/
theorem test_enc :
    nextIs (exec .enc (blocks35 (regsOf 0 16 0x30)))
      (fun t => decide (t.errcode = .ok) && holdsNat t 0x30 16 0x8ea2b7ca516745bfeafc49904b496089) = true := by
  decide +kernel

/-- spec/95 E6: a partial overlap. -/
theorem test_enc_partial_overlap :
    nextIs (exec .enc (blocks35 (regsOf 0 16 8))) (endedWith (blocks35 (regsOf 0 16 8)) .overlapError) = true := by
  decide +kernel

/-- spec/95 E4: in place. -/
theorem test_dec_in_place :
    nextIs (exec .dec (blocks35 (regsOf 16 16 16)))
      (fun t => decide (t.errcode = .ok) && holdsNat t 16 16 0x00112233445566778899aabbccddeeff) = true := by
  decide +kernel

/-- spec/95 E11: the length check. -/
theorem test_dec_length :
    nextIs (exec .dec (blocks35 (regsOf 0 32 0x30))) (endedWith (blocks35 (regsOf 0 32 0x30)) .invalidBlockLength) = true := by
  decide +kernel

/-- spec/95 G2 and G4's registers: the zero key, a zero nonce at 0x10, sixteen bytes `v` of text at 0, the tag `t` at 0x20. -/
def gcm (o : OperandRegs) (v t : Nat) : State :=
  keyed keyZero hZero o
    (Memory.writeBytes (Memory.writeBytes (Memory.writeBytes [] 0 (bytesOf 16 v)) 16 (List.replicate 12 0x00#8)) 0x20
      (bytesOf 16 t))

/-- spec/95 G2, in place. -/
theorem test_gcm_enc_in_place :
    nextIs (exec .gcmEnc (gcm (regsOf 0 16 0 0 0 16 12 0x20) 0 0))
      (fun t => decide (t.errcode = .ok) && holdsNat t 0 16 0xcea7403d4d606b6e074ec5d3baf39d18 &&
        holdsNat t 0x20 16 0xd0d1c8a799996bf0265b98b5d48ab919) = true := by
  decide +kernel

/-- spec/95 GC9: two faults, the length check first. -/
theorem test_gcm_enc_length_first :
    nextIs (exec .gcmEnc (gcm (regsOf 0 16 0 0 0 16 16 16) 0 0))
      (endedWith (gcm (regsOf 0 16 0 0 0 16 16 16) 0 0) .unsupportedNonceLength) = true := by
  decide +kernel

/-- spec/95 G2 back: the plaintext at 0x30. -/
theorem test_gcm_dec :
    nextIs (exec .gcmDec
        (gcm (regsOf 0 16 0x30 0 0 16 12 0x20) 0xcea7403d4d606b6e074ec5d3baf39d18 0xd0d1c8a799996bf0265b98b5d48ab919))
      (fun t => decide (t.errcode = .ok) && holdsNat t 0x30 16 0) = true := by
  decide +kernel

/-- spec/95 GC15: the last tag byte XOR 01. -/
theorem test_gcm_dec_forged_tag :
    nextIs (exec .gcmDec
        (gcm (regsOf 0 16 0 0 0 16 12 0x20) 0xcea7403d4d606b6e074ec5d3baf39d18 0xd0d1c8a799996bf0265b98b5d48ab918))
      (endedWith (gcm (regsOf 0 16 0 0 0 16 12 0x20) 0xcea7403d4d606b6e074ec5d3baf39d18 0xd0d1c8a799996bf0265b98b5d48ab918)
        .authenticationFailure) = true := by
  decide +kernel

/-- spec/95 U1: A empty, C one block. -/
theorem test_ghash :
    nextIs (exec .ghash (gcm (regsOf 0 16 0x30) 0xcea7403d4d606b6e074ec5d3baf39d18 0))
      (fun t => decide (t.errcode = .ok) && holdsNat t 0x30 16 0x83de425c5edc5d498f382c441041ca92) = true := by
  decide +kernel

/-- spec/95 U4: GHASH has no in-place form. -/
theorem test_ghash_overlap :
    nextIs (exec .ghash (gcm (regsOf 0 16 0) 0 0)) (endedWith (gcm (regsOf 0 16 0) 0 0) .overlapError) = true := by
  decide +kernel

/-- spec/95 M1: no key needed. -/
theorem test_gfmul8 :
    nextIs (exec .gfmul8 (small false (regsOf 0 0 2) [(0, 0x57#8), (1, 0x83#8)]))
      (fun t => decide (t.buf = [(0, 0x57#8), (1, 0x83#8), (2, 0xc1#8)])) = true := by
  decide +kernel

/-- spec/95 M5: the fault on the byte that was never written. -/
theorem test_gfmul8_undefined :
    faultIs (exec .gfmul8 (small false (regsOf 1 0 0) [(0, 0x57#8), (1, 0x83#8)])) (.uninitRead 2) = true := by
  decide +kernel

/-- The two factors of spec/95 §4.3 at 0. -/
def factors (dst : Nat) : State :=
  small false (regsOf 0 0 dst)
    (Memory.writeBytes [] 0 (bytesOf 32 0x66e94bd4ef8a2c3b884cfa59ca342b2e0388dace60b6a392f328c2b971b2fe78))

/-- spec/95 U12: the product right after the factors. -/
theorem test_gfmul128 :
    nextIs (exec .gfmul128 (factors 32))
      (fun t => decide (t.errcode = .ok) && holdsNat t 32 16 0x5e2ec746917062882c85b0685353deb7) = true := by
  decide +kernel

/-- spec/95 U11: the product over the second factor. -/
theorem test_gfmul128_overlap :
    nextIs (exec .gfmul128 (factors 16)) (endedWith (factors 16) .overlapError) = true := by
  decide +kernel

/-! ### The host port -/

/-- spec/95 B1. -/
theorem test_host_write_word :
    nextIs (step (withEvent State.reset (wr32 (bufOffset 0) 0x603DEB10#32)))
      (fun t => decide (t.buf = [(0, 0x60#8), (1, 0x3d#8), (2, 0xeb#8), (3, 0x10#8)]) && decide (t.responses = [.okayWrite])) =
      true := by
  decide

/-- spec/95 B4. -/
theorem test_host_read_half :
    nextIs (step (withEvent { State.reset with buf := [(2, 0xeb#8), (3, 0x10#8)] } (rd16 (bufOffset 2))))
      (fun t => decide (t.responses = [.okayRead (.b2 0xEB10#16)])) = true := by
  decide

/-- spec/95 B7, B9, B15, B16. -/
theorem test_host_bus_errors :
    [rd32 (bufOffset 2), rd16 0x004#32, rd32 0x1000#32, rd32 0x20000#32].all (fun e =>
      nextIs (step (withEvent State.reset e)) (fun t => decide (t.responses = [.busErr]))) = true := by
  decide

/-- spec/95 B19. -/
theorem test_host_read_undefined : faultIs (step (withEvent State.reset (rd32 (bufOffset 4)))) (.uninitRead 4) = true := by
  decide

/-- spec/95 Y2, Y3, Y5: dropped writes while a command runs; STATUS keeps LASTOP and shows DROP. -/
theorem test_busy_writes_are_dropped :
    [wr32 0x000#32 2#32, wr32 0x010#32 0x20#32, wr32 (bufOffset 0) 0#32].all (fun e =>
      nextIs (step (withEvent (State.reset.withFetchWord 32 1) e))
        (fun t => decide (t.status = 0x00010011#32) && decide (t.latch = 1#32) && decide (t.opr = OperandRegs.reset) &&
          decide (t.buf = []))) = true := by
  decide

/-- spec/95 Q4, Q5: a STATUS write clears DONE where bit 1 is 1 and nothing else here. -/
theorem test_status_write :
    [(0x0000FFFD#32, 0x0001000A#32), (0x00000002#32, 0x00010008#32)].all (fun p =>
      nextIs (step (withEvent { State.reset with done := true, keyValid := true, lastop := 1#8, ie := true } (wr32 0x004#32 p.1)))
        (fun t => decide (t.status = p.2))) = true := by
  decide

/-- The canonical form: a lower address goes in front, a second write of an address replaces the first. -/
theorem test_memory_canonical :
    Memory.write (Memory.write (Memory.write [] 5 1#8) 2 2#8) 5 3#8 = [(2, 2#8), (5, 3#8)] := by decide

/-- The reset buffer is in canonical form. -/
theorem test_reset_memory_wf : Memory.wf State.reset.buf := by decide

/-! ### Witnesses: for each statement with hypotheses, a state and operands that meet them all -/

/-- The checks pass, from the laws of the operand table: no evaluation of a command. -/
theorem admits_of_check (i : Instr) (s : State) (h : s.checkOperands (operandsOf i s) = .ok) : s.admits i := by
  obtain ⟨h1, h2, h3, h4⟩ := (check_eq_ok_iff _ _ _ (fun e he => by
    rcases operandsOf_lengthError i s e he with rfl | rfl | rfl <;> simp)).1 h
  exact ⟨fun hk => h1 ((operandsOf_needsKey_iff i s).2 hk), (operandsOf_lengthError_eq_none_iff i s).1 h2,
    (operandsOf_inRange_iff i s).1 h3, (operandsOf_clash_eq_false_iff i s).1 h4⟩

/-- A string just written is held by the machine that has it. -/
theorem small_holds (key : Bool) (o : OperandRegs) (a : Nat) (l : Bytes) : (small key o (Memory.writeBytes [] a l)).holds a l :=
  holds_of_buf_eq_writeBytes _ [] a l rfl

/-- Sixteen zero bytes, sixteen-byte text of the witnesses. -/
def zeros : Block := Vector.replicate 16 0x00#8

/-- A keyed machine that holds sixteen zero bytes at 0 and has the given destination. -/
def textAt (src dst : Nat) : State := small true (regsOf src 16 dst) (Memory.writeBytes [] 0 zeros.toList)

/-- A keyed machine whose GCM operands all lie in 64 zero bytes: text at 0, AAD (4 bytes) at 16, nonce at 20, tag at 32. -/
def gcmAt (dst : Nat) : State :=
  small true (regsOf 0 16 dst 16 4 20 12 32) (Memory.writeBytes [] 0 (List.replicate 64 0x00#8))

/-- A machine with `tx` next. -/
def hostNext (busy : Bool) (tx : HostTx) : State := { State.reset with busy := busy, script := [.host tx] }

/-- A running engine and an idle one, each with the script exhausted and with the engine's turn scripted. -/
theorem test_witness_StepRunsLatchedCommand :
    ((State.reset.withFetchWord 32 2).busy = true ∧ decode (State.reset.withFetchWord 32 2).latch = .ok .enc ∧
        (State.reset.withFetchWord 32 2).script = []) ∧
      ({ State.reset with script := [.reset] }.withFetchWord 32 8).busy = true ∧
        decode ({ State.reset with script := [.reset] }.withFetchWord 32 8).latch = .ok .gfmul128 ∧
        ({ State.reset with script := [.reset] }.withFetchWord 32 8).script = .engine :: [.reset] ∧
        (State.reset.busy = false ∧ State.reset.script = []) ∧
        (withEvent State.reset .engine).busy = false ∧ (withEvent State.reset .engine).script = .engine :: [] := by decide

/-- One word for each clause: RSVD = 1, OP = 0x00, OP = 0x09 and OP = 0xFF. -/
theorem test_witness_IllegalWordEndsWithCode5 :
    (∀ w ∈ [0x100, 0x00, 0x09, 0xFF],
        (State.reset.withFetchWord 32 w).busy = true ∧ (State.reset.withFetchWord 32 w).script = []) ∧
      ({ State.reset with script := [.reset] }.withFetchWord 32 0x09).script = .engine :: [.reset] ∧
      (State.reset.withFetchWord 32 0x100).latch.extractLsb' 8 24 ≠ 0#24 ∧
      (State.reset.withFetchWord 32 0x00).latch.extractLsb' 0 8 = 0x00#8 ∧
      9 ≤ ((State.reset.withFetchWord 32 0x09).latch.extractLsb' 0 8).toNat ∧
      9 ≤ ((State.reset.withFetchWord 32 0xFF).latch.extractLsb' 0 8).toNat := by decide

theorem test_witness_NoKeyEndsWithCode6 :
    State.reset.keyValid = false ∧
      (∀ i ∈ [Instr.enc, .dec, .gcmEnc, .gcmDec, .ghash], i = .enc ∨ i = .dec ∨ i = .gcmEnc ∨ i = .gcmDec ∨ i = .ghash) ∧
      exec .keyexp State.reset = .next (State.reset.ended .invalidKeyLength) ∧
      exec .gfmul8 State.reset = .next (State.reset.ended .overlapError) ∧
      exec .gfmul128 State.reset = .next (State.reset.ended .overlapError) :=
  ⟨by decide, by decide, rfl, rfl, rfl⟩

/-- One byte short and one byte long for each length check. -/
theorem test_witness_WrongLengthEndsWithItsCode :
    ((regsOf 0 31 0).srcLen ≠ 32#32 ∧ (regsOf 0 33 0).srcLen ≠ 32#32) ∧
      ((small true (regsOf 0 15 0) []).keyValid = true ∧ (small true (regsOf 0 15 0) []).opr.srcLen ≠ 16#32 ∧
        (small true (regsOf 0 17 0) []).opr.srcLen ≠ 16#32) ∧
      ((small true (regsOf 0 0 0 0 0 0 11) []).keyValid = true ∧ (small true (regsOf 0 0 0 0 0 0 11) []).opr.nonceLen ≠ 12#32 ∧
        (small true (regsOf 0 0 0 0 0 0 13) []).opr.nonceLen ≠ 12#32) ∧
      exec .ghash State.reset = .next (State.reset.ended .noKey) ∧
      exec .gfmul8 State.reset = .next (State.reset.ended .overlapError) ∧
      exec .gfmul128 State.reset = .next (State.reset.ended .overlapError) :=
  ⟨by decide, by decide, by decide, rfl, rfl, rfl⟩

/-- ENC into 64 bytes: destination 49 is one byte out of range; destination 15 overlaps the source's last byte. -/
theorem test_witness_BadRegionsEndWithTheirCodes :
    ((tableNeedsKey .enc → (textAt 0 49).keyValid = true) ∧ tableLengthOk .enc (textAt 0 49).opr ∧
        ∃ r ∈ tableInputs .enc (textAt 0 49).opr ++ tableOutputs .enc (textAt 0 49).opr, ¬ (textAt 0 49).fits r.1 r.2) ∧
      ((tableNeedsKey .enc → (textAt 0 15).keyValid = true) ∧ tableLengthOk .enc (textAt 0 15).opr ∧
        (∀ r ∈ tableInputs .enc (textAt 0 15).opr ++ tableOutputs .enc (textAt 0 15).opr, (textAt 0 15).fits r.1 r.2) ∧
        ¬ tableNoClash .enc (textAt 0 15).opr) := by
  refine ⟨⟨fun _ => rfl, ⟨by simp, fun _ => rfl, by simp⟩, (49, 16), by simp [tableOutputs, textAt, small, regsOf], ?_⟩,
    fun _ => rfl, ⟨by simp, fun _ => rfl, by simp⟩, (operandsOf_inRange_iff .enc (textAt 0 15)).1 (by decide), ?_⟩
  · simp [State.fits, textAt, small, Config.bufSize]
  · rw [← operandsOf_clash_eq_false_iff]
    decide

/-- ENC without a key: a failed command. -/
theorem test_witness_FailedCommandChangesOnlyStatus :
    exec .enc State.reset = .next (State.reset.ended .noKey) ∧ (State.reset.ended .noKey).errcode ≠ .ok := ⟨rfl, by decide⟩

/-- GFMUL8 of two zero bytes. -/
def product8 : State := small false (regsOf 0 0 2) (Memory.writeBytes [] 0 [0x00#8, 0x00#8])

theorem test_witness_CommandFrame : ∃ t, exec .gfmul8 product8 = .next t :=
  ⟨_, exec_of_body _ _ _ _ (by decide) (bodyGfmul8_of_read product8 [0x00#8, 0x00#8] rfl)⟩

theorem test_witness_CommandWritesOnlyItsOutputs : ∃ t, exec .gfmul8 product8 = .next t := test_witness_CommandFrame

/-- GFMUL8 of bytes nothing has written. -/
theorem test_witness_CommandFaultsOnlyOnUndefinedInput :
    exec .gfmul8 (small false (regsOf 0 0 2) []) = .fault (.uninitRead 0) :=
  exec_of_body_error _ _ _ (by decide) (by decide)

theorem test_witness_UndefinedInputFaults :
    (small false (regsOf 0 0 2) []).admits .gfmul8 ∧
      ∃ r ∈ tableInputs .gfmul8 (small false (regsOf 0 0 2) []).opr,
        ∃ x, inRegion r x ∧ Memory.read (small false (regsOf 0 0 2) []).buf x = none :=
  ⟨admits_of_check _ _ (by decide), (0, 2), by simp [tableInputs, small, regsOf], 1, by simp [inRegion], rfl⟩

theorem test_witness_GmulFieldLaws : (0x01#8 : Byte) ≠ 0x00#8 ∧ (0xFF#8 : Byte) ≠ 0x00#8 := by decide

theorem test_witness_SboxIsAffineOfInverse : gmul 0x53#8 0xCA#8 = 0x01#8 := by decide +kernel

/-- The two bytes are the last two of the buffer. -/
theorem test_witness_Gfmul8WritesProduct :
    (small false (regsOf 62 0 61) (Memory.writeBytes [] 62 [0x57#8, 0x83#8])).admits .gfmul8 ∧
      (small false (regsOf 62 0 61) (Memory.writeBytes [] 62 [0x57#8, 0x83#8])).holds
        (small false (regsOf 62 0 61) (Memory.writeBytes [] 62 [0x57#8, 0x83#8])).opr.srcAddr.toNat [0x57#8, 0x83#8] :=
  ⟨admits_of_check _ _ (by decide), small_holds _ _ _ _⟩

/-- The first key word and both ends of the recurrence's range. -/
theorem test_witness_ExpandObeysRecurrence : keyZero.length = 32 ∧ (0 < 8 ∧ 7 < 8) ∧ (8 < 60 ∧ 8 ≤ 8) ∧ 59 < 60 ∧ 8 ≤ 59 := by decide

/-- The key fills the last 32 bytes of the buffer. -/
theorem test_witness_KeyexpInstallsInstance :
    keyZero.length = 32 ∧ (small false (regsOf 32 32 0) (Memory.writeBytes [] 32 keyZero)).admits .keyexp ∧
      (small false (regsOf 32 32 0) (Memory.writeBytes [] 32 keyZero)).holds
        (small false (regsOf 32 32 0) (Memory.writeBytes [] 32 keyZero)).opr.srcAddr.toNat keyZero :=
  ⟨by decide, admits_of_check _ _ (by decide), small_holds _ _ _ _⟩

/-- A shifted column, and the first and the last middle round. -/
theorem test_witness_TransformEntries :
    (0 : Fin 4).val = ((1 : Fin 4).val + (3 : Fin 4).val) % 4 ∧ (1 ≤ (1 : Fin 15).val ∧ (1 : Fin 15).val ≤ 13) ∧
      1 ≤ (13 : Fin 15).val ∧ (13 : Fin 15).val ≤ 13 := by decide

/-- In place, and with the destination right after the source. -/
theorem test_witness_EncWritesCipher :
    ((textAt 0 0).admits .enc ∧ (textAt 0 0).holds (textAt 0 0).opr.srcAddr.toNat zeros.toList) ∧
      (textAt 0 16).admits .enc ∧ (textAt 0 16).holds (textAt 0 16).opr.srcAddr.toNat zeros.toList :=
  ⟨⟨admits_of_check _ _ (by decide), small_holds _ _ _ _⟩, admits_of_check _ _ (by decide), small_holds _ _ _ _⟩

theorem test_witness_DecWritesInvCipher :
    ((textAt 0 0).admits .dec ∧ (textAt 0 0).holds (textAt 0 0).opr.srcAddr.toNat zeros.toList) ∧
      (textAt 0 16).admits .dec ∧ (textAt 0 16).holds (textAt 0 16).opr.srcAddr.toNat zeros.toList :=
  ⟨⟨admits_of_check _ _ (by decide), small_holds _ _ _ _⟩, admits_of_check _ _ (by decide), small_holds _ _ _ _⟩

theorem test_witness_DecUndoesEncInPlace :
    (textAt 0 0).opr.dstAddr = (textAt 0 0).opr.srcAddr ∧ ∃ t, exec .enc (textAt 0 0) = .next t ∧ t.errcode = .ok :=
  ⟨rfl, _, exec_of_body _ _ _ _ (by decide)
    (bodyEnc_of_read (textAt 0 0) zeros.toList (memRead_of_holds _ _ _ _ (small_holds _ _ _ _) rfl)), rfl⟩

theorem test_witness_CoefficientBitOrder : 0 < 16 ∧ 0 ≤ 7 ∧ 15 < 16 ∧ 7 ≤ 7 := by decide

/-- The first and the last byte of a block, and the first and the last power of α below α¹²⁷. -/
theorem test_witness_Gf128Laws : (0 < 16 ∧ 15 < 16) ∧ 0 < 127 ∧ 126 < 127 := by decide

/-- One byte of AAD and one of ciphertext: three blocks, and both bit lengths fit in eight bytes. -/
theorem test_witness_GhashTakesWholeBlocks :
    8 * ([0xAA#8] : Bytes).length < 2 ^ 64 ∧ 8 * ([0xCC#8] : Bytes).length < 2 ^ 64 ∧ 0 < 16 ∧ 15 < 16 ∧
      0 < (ghashBlocks [0xAA#8] [0xCC#8]).length ∧ 2 < (ghashBlocks [0xAA#8] [0xCC#8]).length := by decide

theorem test_witness_CounterBlocksStartAndWrap : (List.replicate 12 0xFF#8 : Bytes).length = 12 := by decide

/-- The last byte of a string of seventeen. -/
theorem test_witness_GctrUsesIncrementedCounters : 0 < 16 ∧ 16 * 1 + 0 < (List.replicate 17 0x00#8 : Bytes).length := by decide

/-- The tag of nothing under the zero nonce, another block, and another nonce. -/
theorem test_witness_TamperedTagOrNonceFails :
    (List.replicate 12 0x00#8 : Bytes).length = 12 ∧
      (∃ t' : Block, t' ≠ tagOf State.reset.sched zeros (List.replicate 12 0x00#8) [] []) ∧
      (List.replicate 12 0xFF#8 : Bytes).length = 12 ∧
      (List.replicate 12 0xFF#8 : Bytes) ≠ List.replicate 12 0x00#8 := by
  refine ⟨by decide, ?_, by decide, by decide⟩
  generalize tagOf State.reset.sched zeros (List.replicate 12 0x00#8) [] [] = t
  refine ⟨Vector.ofFn fun i => t[i] ^^^ 0x01#8, fun h => ?_⟩
  have h0 := congrArg (fun v : Block => v[0]) h
  simp only [Vector.getElem_ofFn] at h0
  have h1 : ∀ b : Byte, b ^^^ 0x01#8 ≠ b := by decide
  exact h1 _ h0

/-- Text, AAD, nonce and tag of the GCM witnesses are zero bytes. -/
theorem gcmAt_holds (dst a n : Nat) (h : a + n ≤ 64) : (gcmAt dst).holds a (List.replicate n 0x00#8) := by
  intro k hk
  have hk' : k < n := by simpa using hk
  have := small_holds true (regsOf 0 16 dst 16 4 20 12 32) 0 (List.replicate 64 0x00#8) (a + k) (by simp; omega)
  rw [Nat.zero_add] at this
  rw [List.getElem_replicate] at this ⊢
  exact this

/-- In place, and with the destination at the end of the buffer. -/
theorem test_witness_GcmEncWritesCiphertextAndTag :
    ∀ s ∈ [gcmAt 0, gcmAt 48], s.admits .gcmEnc ∧
      (List.replicate 16 0x00#8 : Bytes).length = s.opr.srcLen.toNat ∧
      s.holds s.opr.srcAddr.toNat (List.replicate 16 0x00#8) ∧
      (List.replicate 4 0x00#8 : Bytes).length = s.opr.aadLen.toNat ∧ s.holds s.opr.aadAddr.toNat (List.replicate 4 0x00#8) ∧
      (List.replicate 12 0x00#8 : Bytes).length = 12 ∧ s.holds s.opr.nonceAddr.toNat (List.replicate 12 0x00#8) := by
  intro s hs
  simp only [List.mem_cons, List.not_mem_nil, or_false] at hs
  rcases hs with rfl | rfl
  · exact ⟨admits_of_check _ _ (by decide), by decide, gcmAt_holds _ _ _ (by decide), by decide, gcmAt_holds _ _ _ (by decide),
      by decide, gcmAt_holds _ _ _ (by decide)⟩
  · exact ⟨admits_of_check _ _ (by decide), by decide, gcmAt_holds _ _ _ (by decide), by decide, gcmAt_holds _ _ _ (by decide),
      by decide, gcmAt_holds _ _ _ (by decide)⟩

/-- A machine that holds `tag` at 32 in place of the zero bytes there. -/
def taggedAt (tag : Block) : State := { gcmAt 48 with buf := Memory.writeBytes (gcmAt 48).buf 32 tag.toList }

/-- Text, AAD and nonce as in `gcmAt`, and any tag. -/
theorem taggedAt_meets (tag : Block) :
    (taggedAt tag).admits .gcmDec ∧ (taggedAt tag).holds 0 (List.replicate 16 0x00#8) ∧
      (taggedAt tag).holds 16 (List.replicate 4 0x00#8) ∧ (taggedAt tag).holds 20 (List.replicate 12 0x00#8) ∧
      (taggedAt tag).holds 32 tag.toList := by
  have keep : ∀ a n, a + n ≤ 32 → (taggedAt tag).holds a (List.replicate n 0x00#8) := by
    intro a n h k hk
    have hk' : k < n := by simpa using hk
    change Memory.read (Memory.writeBytes (gcmAt 48).buf 32 tag.toList) (a + k) = _
    rw [memory_read_writeBytes_outside (gcmAt 48).buf 32 tag.toList (a + k) (.inl (by omega))]
    exact gcmAt_holds 48 a n (by omega) k hk
  refine ⟨admits_of_check .gcmDec (taggedAt tag) (by rfl), keep _ _ (by decide), keep _ _ (by decide), keep _ _ (by decide), ?_⟩
  exact holds_of_buf_eq_writeBytes _ (gcmAt 48).buf _ _ rfl

/-- Both clauses: the true tag, and another one. -/
theorem test_witness_GcmDecReleasesAllOrNothing :
    ∃ good bad : Block, ∀ tag ∈ [good, bad], (taggedAt tag).admits .gcmDec ∧
      (List.replicate 16 0x00#8 : Bytes).length = (taggedAt tag).opr.srcLen.toNat ∧
      (taggedAt tag).holds (taggedAt tag).opr.srcAddr.toNat (List.replicate 16 0x00#8) ∧
      (List.replicate 4 0x00#8 : Bytes).length = (taggedAt tag).opr.aadLen.toNat ∧
      (taggedAt tag).holds (taggedAt tag).opr.aadAddr.toNat (List.replicate 4 0x00#8) ∧
      (List.replicate 12 0x00#8 : Bytes).length = 12 ∧
      (taggedAt tag).holds (taggedAt tag).opr.nonceAddr.toNat (List.replicate 12 0x00#8) ∧
      (taggedAt tag).holds (taggedAt tag).opr.tagAddr.toNat tag.toList ∧
      (Block.xor (cipher (taggedAt tag).sched (initialCounter (List.replicate 12 0x00#8)))
        (ghash (taggedAt tag).hsub (List.replicate 4 0x00#8) (List.replicate 16 0x00#8)) = tag ↔ tag = good) ∧ bad ≠ good := by
  refine ⟨tagOf State.reset.sched State.reset.hsub (List.replicate 12 0x00#8) (List.replicate 4 0x00#8) (List.replicate 16 0x00#8),
    Vector.ofFn fun i => (tagOf State.reset.sched State.reset.hsub (List.replicate 12 0x00#8) (List.replicate 4 0x00#8)
      (List.replicate 16 0x00#8))[i] ^^^ 0x01#8, ?_⟩
  intro tag _
  obtain ⟨h1, h2, h3, h4, h5⟩ := taggedAt_meets tag
  refine ⟨h1, rfl, h2, rfl, h3, rfl, h4, h5, ?_, ?_⟩
  · exact ⟨fun h => h.symm, fun h => h.symm⟩
  · generalize tagOf State.reset.sched State.reset.hsub (List.replicate 12 0x00#8) (List.replicate 4 0x00#8)
      (List.replicate 16 0x00#8) = t
    intro h
    have h0 := congrArg (fun v : Block => v[0]) h
    simp only [Vector.getElem_ofFn] at h0
    have h1 : ∀ b : Byte, b ^^^ 0x01#8 ≠ b := by decide
    exact h1 _ h0

theorem test_witness_GcmDecUndoesGcmEncInPlace :
    (gcmAt 0).opr.dstAddr = (gcmAt 0).opr.srcAddr ∧ ∃ t, exec .gcmEnc (gcmAt 0) = .next t ∧ t.errcode = .ok :=
  ⟨rfl, _, exec_of_body _ _ _ _ (by decide)
    (bodyGcmEnc_of_read (gcmAt 0) (List.replicate 12 0x00#8) (List.replicate 16 0x00#8) (List.replicate 4 0x00#8)
      (memRead_of_holds _ _ _ _ (gcmAt_holds _ _ _ (by decide)) rfl)
      (memRead_of_holds _ _ _ _ (gcmAt_holds _ _ _ (by decide)) rfl)
      (memRead_of_holds _ _ _ _ (gcmAt_holds _ _ _ (by decide)) rfl)), rfl⟩

/-- The hash right above AAD, nonce and tag. -/
theorem test_witness_GhashWritesHash :
    (gcmAt 48).admits .ghash ∧ (List.replicate 4 0x00#8 : Bytes).length = (gcmAt 48).opr.aadLen.toNat ∧
      (gcmAt 48).holds (gcmAt 48).opr.aadAddr.toNat (List.replicate 4 0x00#8) ∧
      (List.replicate 16 0x00#8 : Bytes).length = (gcmAt 48).opr.srcLen.toNat ∧
      (gcmAt 48).holds (gcmAt 48).opr.srcAddr.toNat (List.replicate 16 0x00#8) :=
  ⟨admits_of_check _ _ (by decide), by decide, gcmAt_holds _ _ _ (by decide), by decide, gcmAt_holds _ _ _ (by decide)⟩

theorem test_witness_Gfmul128WritesProduct :
    (gcmAt 48).admits .gfmul128 ∧ (gcmAt 48).holds (gcmAt 48).opr.srcAddr.toNat (zeros.toList ++ zeros.toList) :=
  ⟨admits_of_check _ _ (by decide), gcmAt_holds 48 0 32 (by decide)⟩

/-! Host transactions: each witness is a machine with the transaction next, with BUSY at each value a clause asks for. -/

theorem test_witness_CmdAcceptsOrDrops :
    (hostNext false (.write 0x000#32 (.b4 1#32))).script = .host (.write 0x000#32 (.b4 1#32)) :: [] ∧
      (hostNext false (.write 0x000#32 (.b4 1#32))).busy = false ∧
      (hostNext true (.write 0x000#32 (.b4 1#32))).script = .host (.write 0x000#32 (.b4 1#32)) :: [] ∧
      (hostNext true (.write 0x000#32 (.b4 1#32))).busy = true ∧
      (hostNext true (.read 0x000#32 .b4)).script = .host (.read 0x000#32 .b4) :: [] := by decide

theorem test_witness_StatusReadShowsFields :
    (hostNext true (.read 0x004#32 .b4)).script = .host (.read 0x004#32 .b4) :: [] := by decide

theorem test_witness_StatusWriteClearsDoneAndDrop :
    (hostNext false (.write 0x004#32 (.b4 0x12#32))).script = .host (.write 0x004#32 (.b4 0x12#32)) :: [] := by decide

/-- The first and the last word of each reserved range among the offsets. -/
theorem test_witness_CtrlCapsAndReservedAccesses :
    (hostNext false (.write 0x008#32 (.b4 1#32))).script = .host (.write 0x008#32 (.b4 1#32)) :: [] ∧
      (hostNext false (.read 0x008#32 .b4)).script = .host (.read 0x008#32 .b4) :: [] ∧
      (hostNext false (.write 0x00C#32 (.b4 1#32))).script = .host (.write 0x00C#32 (.b4 1#32)) :: [] ∧
      (hostNext false (.read 0x00C#32 .b4)).script = .host (.read 0x00C#32 .b4) :: [] ∧
      [0x030#32, 0x0FC#32, 0x200#32, 0xFFC#32].Forall fun off =>
        (0x030 ≤ off.toNat ∧ off.toNat ≤ 0x0FC ∨ 0x200 ≤ off.toNat ∧ off.toNat ≤ 0xFFC) ∧ off.toNat % 4 = 0 ∧
          (hostNext false (.read off .b4)).script = .host (.read off .b4) :: [] ∧
          (hostNext false (.write off (.b4 1#32))).script = .host (.write off (.b4 1#32)) :: [] := by
  simp only [List.Forall]
  decide

theorem test_witness_OperandRegisterAccesses :
    ∀ r ∈ [OperandReg.srcAddr, .tagAddr], ∀ b ∈ [false, true],
      (hostNext b (.write (operandOffset r) (.b4 5#32))).script = .host (.write (operandOffset r) (.b4 5#32)) :: [] ∧
        (hostNext b (.write (operandOffset r) (.b4 5#32))).busy = b ∧
        (hostNext b (.read (operandOffset r) .b4)).script = .host (.read (operandOffset r) .b4) :: [] := by decide +kernel

/-- The first and the last word of each window. -/
theorem test_witness_SchedAndHsubReadback :
    [BitVec.ofNat 32 (0x100 + 4 * (0 : Fin 60).val), BitVec.ofNat 32 (0x100 + 4 * (59 : Fin 60).val),
      BitVec.ofNat 32 (0x1F0 + 4 * (0 : Fin 4).val), BitVec.ofNat 32 (0x1F0 + 4 * (3 : Fin 4).val)].Forall fun off =>
      ∀ b ∈ [false, true], (hostNext b (.read off .b4)).script = .host (.read off .b4) :: [] ∧ (hostNext b (.read off .b4)).busy = b ∧
        (hostNext b (.write off (.b4 5#32))).script = .host (.write off (.b4 5#32)) :: [] := by
  simp only [List.Forall]
  decide

theorem test_witness_InterruptFollowsDoneAndIe :
    (∃ t, exec .enc State.reset = .next t) ∧
      ((hostNext false (.write 0x004#32 (.b4 2#32))).script = .host (.write 0x004#32 (.b4 2#32)) :: [] ∧
        (2#32).getLsbD 1 = true ∧ ∃ t, step (hostNext false (.write 0x004#32 (.b4 2#32))) = .next t) ∧
      ((hostNext false (.write 0x000#32 (.b4 1#32))).script = .host (.write 0x000#32 (.b4 1#32)) :: [] ∧
        (hostNext false (.write 0x000#32 (.b4 1#32))).busy = false ∧
        ∃ t, step (hostNext false (.write 0x000#32 (.b4 1#32))) = .next t) ∧
      ((hostNext false (.write 0x008#32 (.b4 1#32))).script = .host (.write 0x008#32 (.b4 1#32)) :: [] ∧
        ∃ t, step (hostNext false (.write 0x008#32 (.b4 1#32))) = .next t) ∧
      ({ State.reset with script := [.reset] }.script = .reset :: [] ∧
        ∃ t, step { State.reset with script := [.reset] } = .next t) :=
  ⟨⟨_, rfl⟩, ⟨rfl, by decide, _, rfl⟩, ⟨rfl, rfl, _, rfl⟩, ⟨rfl, _, rfl⟩, rfl, _, rfl⟩

/-- A half word and a misaligned word, at the ends of the register window. -/
theorem test_witness_MalformedRegisterAccessIsBusErr :
    ((0xFFE#32).toNat ≤ 0xFFF ∧ (hostNext true (.read 0xFFE#32 .b2)).script = .host (.read 0xFFE#32 .b2) :: [] ∧
        AccessSize.b2 ≠ .b4) ∧
      ((0x001#32).toNat ≤ 0xFFF ∧
        (hostNext true (.write 0x001#32 (.b4 0#32))).script = .host (.write 0x001#32 (.b4 0#32)) :: [] ∧
        (0x001#32).toNat % 4 ≠ 0) := by decide

/-- The last word of the buffer. -/
theorem test_witness_BufferWriteIsBigEndian :
    (hostNext false (.write (BitVec.ofNat 32 (0x10000 + 65532)) (.b4 5#32))).script =
        .host (.write (BitVec.ofNat 32 (0x10000 + 65532)) (.b4 5#32)) :: [] ∧
      65532 < State.reset.config.bufSize ∧ 65532 % (HostData.b4 5#32).size.bytes = 0 ∧
      (hostNext false (.write (BitVec.ofNat 32 (0x10000 + 65532)) (.b4 5#32))).busy = false := by decide

/-- Both clauses: a defined byte and an undefined one at the start of the buffer. -/
theorem test_witness_BufferReadIsBigEndian :
    ∀ m ∈ [[(0, 0x5A#8)], ([] : Memory)],
      ({ hostNext false (.read (BitVec.ofNat 32 (0x10000 + 0)) .b1) with buf := m }.script =
          .host (.read (BitVec.ofNat 32 (0x10000 + 0)) .b1) :: [] ∧
        0 < State.reset.config.bufSize ∧ 0 % AccessSize.b1.bytes = 0 ∧
        ((m ≠ [] → ∀ k, k < AccessSize.b1.bytes → (Memory.read m (0 + k)).isSome) ∧
          (m = [] → ∃ k, k < AccessSize.b1.bytes ∧ Memory.read m (0 + k) = none))) := by
  intro m hm
  simp only [List.mem_cons, List.not_mem_nil, or_false] at hm
  rcases hm with rfl | rfl
  · exact ⟨rfl, by decide, by decide, fun _ => by decide, fun h => by cases h⟩
  · exact ⟨rfl, by decide, by decide, fun h => absurd rfl h, fun _ => ⟨0, by decide, rfl⟩⟩

/-- The last misaligned half word of the buffer window, and the offsets around the windows. -/
theorem test_witness_MisalignedOrUnmappedIsBusErr :
    (0x10000 ≤ (0x1FFFF#32).toNat ∧ (0x1FFFF#32).toNat < 0x10000 + State.reset.config.bufSize ∧
        (hostNext false (.read 0x1FFFF#32 .b2)).busy = false ∧
        (hostNext false (.read 0x1FFFF#32 .b2)).script = .host (.read 0x1FFFF#32 .b2) :: [] ∧
        ((0x1FFFF#32).toNat - 0x10000) % AccessSize.b2.bytes ≠ 0 ∧
        (hostNext false (.write 0x1FFFF#32 (.b2 0#16))).script = .host (.write 0x1FFFF#32 (.b2 0#16)) :: [] ∧
        ((0x1FFFF#32).toNat - 0x10000) % (HostData.b2 0#16).size.bytes ≠ 0) ∧
      [0x1000#32, 0xFFFF#32, 0x20000#32, 0xFFFFFFFF#32].Forall fun off =>
        (0x1000 ≤ off.toNat ∧ off.toNat < 0x10000 ∨ 0x10000 + State.reset.config.bufSize ≤ off.toNat) ∧
          (hostNext false (.read off .b1)).script = .host (.read off .b1) :: [] ∧
          (hostNext false (.write off (.b1 0#8))).script = .host (.write off (.b1 0#8)) :: [] := by
  simp only [List.Forall]
  decide

/-- The first and the last byte of the buffer window. -/
theorem test_witness_BusyBufferAccesses :
    [0x10000#32, 0x1FFFF#32].Forall fun off =>
      0x10000 ≤ off.toNat ∧ off.toNat < 0x10000 + State.reset.config.bufSize ∧
        (hostNext true (.read off .b1)).busy = true ∧ (hostNext true (.read off .b1)).script = .host (.read off .b1) :: [] ∧
        (hostNext true (.write off (.b4 0#32))).busy = true ∧
        (hostNext true (.write off (.b4 0#32))).script = .host (.write off (.b4 0#32)) :: [] := by
  simp only [List.Forall]
  decide

theorem test_witness_RunningCommandIsHiddenFromHost :
    (hostNext true (.read 0x100#32 .b4)).busy = true ∧
      (hostNext true (.read 0x100#32 .b4)).script = .host (.read 0x100#32 .b4) :: [] := by decide

theorem test_witness_HostReadsHaveNoSideEffect :
    (hostNext true (.read 0x100#32 .b4)).script = .host (.read 0x100#32 .b4) :: [] ∧
      ∃ t, step (hostNext true (.read 0x100#32 .b4)) = .next t := ⟨rfl, _, rfl⟩

/-- A read that faults, an idle turn that answers a next state, and a machine with a fault on record. -/
theorem test_witness_FaultRecordOnlyGrows :
    step State.reset = .next State.reset ∧ step (hostNext false (.read 0x10000#32 .b1)) = .fault (.uninitRead 0) ∧
      (State.reset.recordFault (.uninitRead 0)).faults ≠ [] := ⟨rfl, rfl, by decide⟩

theorem test_witness_ResetEventClearsEngine : { State.reset with script := [.reset] }.script = .reset :: [] := rfl

/-- KEYEXP's own step on an empty instance. -/
theorem test_witness_OnlyKeyexpAndResetChangeInstance :
    ∃ t, step ((small false (regsOf 0 32 0) (Memory.writeBytes [] 0 keyZero)).withFetchWord 32 1) = .next t ∧
      ¬ (t.sched = ((small false (regsOf 0 32 0) (Memory.writeBytes [] 0 keyZero)).withFetchWord 32 1).sched ∧
        t.hsub = ((small false (regsOf 0 32 0) (Memory.writeBytes [] 0 keyZero)).withFetchWord 32 1).hsub ∧
        t.keyValid = ((small false (regsOf 0 32 0) (Memory.writeBytes [] 0 keyZero)).withFetchWord 32 1).keyValid) := by
  obtain ⟨w, hw⟩ := expand_isSome keyZero
  have hb := bodyKeyexp_of_read ((small false (regsOf 0 32 0) (Memory.writeBytes [] 0 keyZero)).withFetchWord 32 1) keyZero w
    (memRead_of_holds _ 0 32 keyZero (holds_of_buf_eq_writeBytes _ [] 0 keyZero (by
      simp only [State.withFetchWord, State.present, accept_buf, small])) rfl) hw
  exact ⟨_, exec_of_body .keyexp _ _ _ (by decide +kernel) hb, fun h => by cases h.2.2⟩

/-- Completion, and reset. -/
theorem test_witness_BusyFallsOnlyAtCompletionOrReset :
    (∃ t, step (State.reset.withFetchWord 32 0) = .next t ∧ (State.reset.withFetchWord 32 0).busy = true ∧ t.busy = false) ∧
      ∃ t, step { State.reset with busy := true, script := [.reset] } = .next t ∧ t.busy = false :=
  ⟨⟨_, rfl, rfl, rfl⟩, _, rfl, rfl⟩

/-- A STATUS write of bit 4, and reset. -/
theorem test_witness_DropIsSticky :
    (∃ t, step { hostNext true (.write 0x004#32 (.b4 0x10#32)) with drop := true } = .next t ∧ t.drop = false) ∧
      ∃ t, step { State.reset with drop := true, script := [.reset] } = .next t ∧ t.drop = false :=
  ⟨⟨_, rfl, rfl⟩, _, rfl, rfl⟩

/-- An illegal word, and a command with undefined inputs. -/
theorem test_witness_RunningCommandCompletes :
    ((State.reset.withFetchWord 32 0).busy = true ∧ (State.reset.withFetchWord 32 0).script = []) ∧
      ({ small false (regsOf 0 0 2) [] with busy := true, latch := 7#32 }.busy = true ∧
        { small false (regsOf 0 0 2) [] with busy := true, latch := 7#32 }.script = []) := by decide

/-- A machine with a command accepted. -/
theorem test_witness_StepKeepsMachineInvariant :
    (State.reset.withFetchWord 32 2).Inv ∧ ∃ t, step (State.reset.withFetchWord 32 2) = .next t :=
  ⟨⟨⟨List.Pairwise.nil, by intro c h; cases h⟩, fun _ => ⟨rfl, rfl⟩, rfl, (by intro h; cases h), (by intro h; cases h),
    fun _ => ⟨rfl, rfl⟩⟩, _, rfl⟩

end Sys2Proof.Tests
end

section
/-!
PROOFS. A running command completes, or meets UninitRead of an undefined input byte (00_scope.md R11, R12; 20_memory.md R62, R73;
41_key_expansion.md R154).
-/

namespace Sys2Proof.Machine

/-- A read that faults names an undefined byte of its region (20_memory.md R62). -/
theorem memRead_error {s : State} {a n : Nat} {f : Fault} (h : s.memRead a n = .error f) :
    ∃ x, f = .uninitRead x ∧ Memory.read s.buf x = none ∧ inRegion (a, n) x := by
  rcases memRead_cases s a n with ⟨l, hl, -, -⟩ | ⟨x, hx, he, hr⟩
  · rw [hl] at h; cases h
  · exact ⟨x, by rw [he] at h; cases h; rfl, hr, hx⟩

/-- A sequence that faults does so in its first part or, that part done, in its second. -/
theorem bind_error {α β : Type} {x : Except Fault α} {g : α → Except Fault β} {f : Fault} (h : x >>= g = .error f) :
    x = .error f ∨ ∃ a, g a = .error f := by
  cases x with
  | error e => cases h; exact .inl rfl
  | ok a => exact .inr ⟨a, h⟩

/-- A sequence whose second part cannot fault faults in its first. -/
theorem bind_pure_error {α β : Type} {x : Except Fault α} {g : α → β} {f : Fault}
    (h : (x >>= fun a => pure (g a)) = .error f) : x = .error f := by
  rcases bind_error h with h | ⟨a, h⟩
  · exact h
  · cases h

/-- Where the length check passes, a body faults only in a read of one of the table's input regions: nothing else a command does
can fault, the expansion of a key included (41_key_expansion.md R154). -/
theorem bodyOf_error {i : Instr} {s : State} {f : Fault} (hlen : tableLengthOk i s.opr) (h : bodyOf i s = .error f) :
    ∃ r ∈ tableInputs i s.opr, s.memRead r.1 r.2 = .error f := by
  obtain ⟨hkey, hblock, hnonce⟩ := hlen
  cases i with
  | keyexp =>
    rcases bind_error h with h | ⟨k, h⟩
    · exact ⟨_, .head _, by simpa [hkey rfl] using h⟩
    · obtain ⟨w, hw⟩ := expand_isSome k
      simp only [hw] at h
      cases h
  | enc => exact ⟨_, .head _, by simpa [hblock (.inl rfl)] using bind_pure_error h⟩
  | dec => exact ⟨_, .head _, by simpa [hblock (.inr rfl)] using bind_pure_error h⟩
  | gcmEnc =>
    rcases bind_error h with h | ⟨p, h⟩
    · exact ⟨_, .head _, h⟩
    rcases bind_error h with h | ⟨a, h⟩
    · exact ⟨_, .tail _ (.head _), h⟩
    · exact ⟨_, .tail _ (.tail _ (.head _)), by simpa [hnonce (.inl rfl)] using bind_pure_error h⟩
  | gcmDec =>
    rcases bind_error h with h | ⟨c, h⟩
    · exact ⟨_, .head _, h⟩
    rcases bind_error h with h | ⟨a, h⟩
    · exact ⟨_, .tail _ (.head _), h⟩
    rcases bind_error h with h | ⟨n, h⟩
    · exact ⟨_, .tail _ (.tail _ (.head _)), by simpa [hnonce (.inr rfl)] using h⟩
    rcases bind_error h with h | ⟨t, h⟩
    · exact ⟨_, .tail _ (.tail _ (.tail _ (.head _))), h⟩
    · split at h <;> cases h
  | ghash =>
    rcases bind_error h with h | ⟨a, h⟩
    · exact ⟨_, .head _, h⟩
    · exact ⟨_, .tail _ (.head _), bind_pure_error h⟩
  | gfmul8 => exact ⟨_, .head _, bind_pure_error h⟩
  | gfmul128 => exact ⟨_, .head _, bind_pure_error h⟩

/-- The checks of a command all pass exactly when the command is admitted (60_exceptions.md R269). -/
theorem checkOperands_eq_ok_iff_admits (i : Instr) (s : State) : s.checkOperands (operandsOf i s) = .ok ↔ s.admits i := by
  have hl : ∀ e, (operandsOf i s).lengthError = some e → e ≠ .ok := fun e he => by
    rcases operandsOf_lengthError i s e he with rfl | rfl | rfl <;> decide
  rw [State.checkOperands, check_eq_ok_iff _ _ _ hl, operandsOf_needsKey_iff, operandsOf_lengthError_eq_none_iff,
    operandsOf_inRange_iff, operandsOf_clash_eq_false_iff, State.admits]

/-- Everything a command can come to: it completes, or it is admitted and faults with UninitRead of an undefined byte of one of its
inputs. -/
theorem exec_completes_or_faults (i : Instr) (s : State) :
    (∃ t, exec i s = .next t ∧ t.busy = false ∧ t.done = true) ∨
      (s.admits i ∧
        ∃ x, exec i s = .fault (.uninitRead x) ∧ Memory.read s.buf x = none ∧ ∃ r ∈ tableInputs i s.opr, inRegion r x) := by
  rw [exec_eq_runCommand]
  rcases runCommand_cases s (operandsOf i s) (bodyOf i s) with ⟨-, h⟩ | ⟨-, t, c, -, h⟩ | ⟨hc, f, hb, h⟩
  · exact .inl ⟨_, h, raise_busy _ _, raise_done _ _⟩
  · exact .inl ⟨_, h, complete_busy _ _, complete_done _ _⟩
  · have hadm := (checkOperands_eq_ok_iff_admits i s).1 hc
    have hlen : tableLengthOk i s.opr := hadm.2.1
    obtain ⟨r, hr, he⟩ := bodyOf_error hlen hb
    obtain ⟨x, rfl, hx, hin⟩ := memRead_error he
    exact .inr ⟨hadm, x, h, hx, r, hr, hin⟩

/-- EngineStep on a word that is a command is that command (30_encoding.md R96). -/
theorem engineStep_of_decode {s : State} {i : Instr} (h : decode s.latch = .ok i) : engineStep s = exec i s := by
  simp only [engineStep, h]

/-- EngineStep on any other word ends with IllegalCommand (30_encoding.md R92, 60_exceptions.md R261). -/
theorem engineStep_of_decode_error {s : State} {e : DecodeError} (h : decode s.latch = .error e) :
    engineStep s = .next (s.raise .illegalCommand) := by
  simp only [engineStep, h]

/-- The engine's turn with BUSY = 1 is EngineStep (00_scope.md R11 (2)). -/
theorem engineTurn_of_busy {s : State} (h : s.busy = true) : engineTurn s = engineStep s := by
  simp only [engineTurn, h, if_true]

end Sys2Proof.Machine

open Sys2Proof Sys2Proof.Machine

/-- Settles O58: the step is EngineStep (log 2). A word that is no command ends with IllegalCommand, and a command completes or
faults in a read of its inputs. -/
theorem runningCommandCompletes : Obligations.RunningCommandCompletes := by
  intro s hbusy hscript
  rw [step_of_nil s hscript, engineTurn_of_busy hbusy]
  cases hd : decode s.latch with
  | error e =>
    rw [engineStep_of_decode_error hd]
    exact .inl ⟨_, rfl, raise_busy _ _, raise_done _ _⟩
  | ok i =>
    rw [engineStep_of_decode hd]
    rcases exec_completes_or_faults i s with h | ⟨-, x, hx, hr, -⟩
    · exact .inl h
    · exact .inr ⟨x, hx, hr⟩

end

section
/-!
PROOFS. What a command that answers has done, what a step that answers has done, and the invariants that follow (10_state.md R30,
R32, R34, R36, R38, R43; 41_key_expansion.md R157).
-/

namespace Sys2Proof.Machine

/-- A command that answers completes with a code and has written at most the buffer, or it is a KEYEXP that completes with code 0
and a new W and H (60_exceptions.md R266, R267; 41_key_expansion.md R157). -/
theorem exec_writes_buffer_or_expands {i : Instr} {s t : State} (h : exec i s = .next t) :
    (∃ (m : Memory) (c : ResultCode), t = State.complete { s with buf := m } c) ∨
      (i = .keyexp ∧ ∃ w hk, t = (s.install w hk).complete .ok) := by
  rcases exec_next_cases i s t h with ⟨-, rfl⟩ | ⟨-, u, c, hb, rfl⟩
  · exact .inl ⟨s.buf, _, rfl⟩
  · rcases bodyOf_ok i s u c hb with ⟨-, -, ws, -, rfl⟩ | ⟨-, -, rfl⟩ | ⟨hi, rfl, k, w, -, -, rfl⟩
    · exact .inl ⟨_, c, rfl⟩
    · exact .inl ⟨u.buf, c, rfl⟩
    · exact .inr ⟨hi, w, _, rfl⟩

/-- With the script exhausted there is no event to take off it. -/
theorem takeEvent_of_nil {s : State} (h : s.script = []) : s.takeEvent = s := by
  cases s
  cases h
  rfl

/-- With an event left, it is taken off the script. -/
theorem takeEvent_of_cons {s : State} {e : Event} {rest : List Event} (h : s.script = e :: rest) :
    s.takeEvent = { s with script := rest } := by
  simp only [State.takeEvent, h, List.tail_cons]

/-- What a step from `s` that answers can answer, one constructor per kind of step (00_scope.md R11). -/
inductive State.Answers (s : State) : State → Prop
  /-- A reset. -/
  | reset (hev : s.script.head? = some .reset) : s.Answers s.takeEvent.resetEngine
  /-- A host read: it hands the host one response. -/
  | read (off : Word) (z : AccessSize) (r : HostResponse) (hev : s.script.head? = some (.host (.read off z))) :
    s.Answers (s.takeEvent.respond r)
  /-- A host write. -/
  | write (off : Word) (d : HostData) (hev : s.script.head? = some (.host (.write off d))) :
    s.Answers ((s.takeEvent.hostWrite off d).1.respond (s.takeEvent.hostWrite off d).2)
  /-- The engine's turn with BUSY = 0. -/
  | idle (hev : s.engineNext) (hbusy : s.busy = false) : s.Answers s.takeEvent
  /-- EngineStep that completes with a code and has written at most the buffer. -/
  | completes (m : Memory) (c : ResultCode) (hev : s.engineNext) (hbusy : s.busy = true) :
    s.Answers (State.complete { s.takeEvent with buf := m } c)
  /-- EngineStep of a KEYEXP that completes with code 0 and a new W and H. -/
  | expands (w : Schedule) (h : Block) (hev : s.engineNext) (hbusy : s.busy = true) (hcmd : decode s.latch = .ok .keyexp) :
    s.Answers ((s.takeEvent.install w h).complete .ok)

/-- The engine's turn that answers does so in one of the last three ways. -/
theorem answers_of_engineTurn {s t : State} (hev : s.engineNext) (h : engineTurn s.takeEvent = .next t) : s.Answers t := by
  rcases engineTurn_next _ _ h with ⟨hb, rfl⟩ | ⟨hb, ⟨i, hi, hx⟩ | rfl⟩
  · exact .idle hev hb
  · rcases exec_writes_buffer_or_expands hx with ⟨m, c, rfl⟩ | ⟨rfl, w, hk, rfl⟩
    · exact .completes m c hev hb
    · exact .expands w hk hev hb hi
  · exact .completes s.buf .illegalCommand hev hb

/-- Every step that answers is one of the six kinds. -/
theorem answers_of_step {s t : State} (h : step s = .next t) : s.Answers t := by
  rcases step_cases s with ⟨he, hs⟩ | ⟨rest, he, hs⟩ | ⟨tx, rest, he, hs⟩ | ⟨rest, he, hs⟩ <;> rw [hs] at h
  · exact answers_of_engineTurn (.inl he) (by rwa [takeEvent_of_nil he])
  · exact answers_of_engineTurn (.inr (by rw [he]; rfl)) (by rwa [takeEvent_of_cons he])
  · rw [← takeEvent_of_cons he] at h
    rcases hostStep_next _ _ _ h with ⟨off, z, r, rfl, rfl⟩ | ⟨off, d, rfl, rfl⟩
    · exact .read off z r (by rw [he]; rfl)
    · exact .write off d (by rw [he]; rfl)
  · rw [← takeEvent_of_cons he] at h
    cases h
    exact .reset (by rw [he]; rfl)

/-- No step that answers touches the fault record (10_state.md R43). -/
theorem faults_of_step {s t : State} (h : step s = .next t) : t.faults = s.faults := by
  cases answers_of_step h with
  | write off d =>
    obtain ⟨-, -, -, -, hfaults⟩ := hostWrite_frame s.takeEvent off d
    exact hfaults
  | reset | read | idle | completes | expands => rfl

/-- A register write clears DROP only at STATUS, by bit 4 (10_state.md R25, R38). -/
theorem writeReg_clears_drop {s : State} {r : RegName} {v : Word} (hs : s.drop = true) (h : (s.writeReg r v).drop = false) :
    r = .status ∧ v.getLsbD 4 = true := by
  cases r with
  | status => exact ⟨rfl, by simpa [State.writeReg, hs] using h⟩
  | cmd | operand r =>
    cases hb : s.busy <;> simp [State.writeReg, hb, hs] at h
  | ctrl | caps | sched | hsub | reserved => cases hs.symm.trans h

/-- A host write clears DROP only at STATUS, by bit 4 (10_state.md R25, R38). -/
theorem hostWrite_clears_drop {s : State} {off : Word} {d : HostData} (hs : s.drop = true)
    (h : (s.hostWrite off d).1.drop = false) : off = 0x004#32 ∧ ∃ v, d = .b4 v ∧ v.getLsbD 4 = true := by
  rcases hostWrite_cases s off d with hw | ⟨v, hd, -, -, hw⟩ | ⟨-, hw⟩ | ⟨-, a, -, -, -, hw⟩ <;> rw [hw] at h
  · cases hs.symm.trans h
  · obtain ⟨hr, hv⟩ := writeReg_clears_drop hs h
    exact ⟨BitVec.eq_of_toNat_eq ((decodeRegister_eq_status_iff _).1 hr), v, hd, hv⟩
  · cases h
  · cases hs.symm.trans h

end Sys2Proof.Machine

open Sys2Proof Sys2Proof.Machine

/-- Settles O55: only a reset and a KEYEXP that expands a key answer another W, H or KEY_VALID. -/
theorem onlyKeyexpAndResetChangeInstance : Obligations.OnlyKeyexpAndResetChangeInstance := by
  intro s t h hchanged
  cases answers_of_step h with
  | reset hev => exact .inl hev
  | write off d =>
    obtain ⟨-, hvalid, hsched, hhsub, -⟩ := hostWrite_frame s.takeEvent off d
    exact absurd ⟨hsched, hhsub, hvalid⟩ hchanged
  | expands w h hev hbusy hcmd => exact .inr ⟨hev, hbusy, hcmd, rfl, rfl⟩
  | read | idle | completes => exact absurd ⟨rfl, rfl, rfl⟩ hchanged

/-- Settles O10, by the two ways in which a command answers. -/
theorem commandFrame : Obligations.CommandFrame := by
  intro s t i h
  rcases exec_writes_buffer_or_expands h with ⟨m, c, rfl⟩ | ⟨rfl, w, hk, rfl⟩
  · exact ⟨rfl, rfl, rfl, rfl, rfl, rfl, rfl, rfl, rfl, rfl, rfl, fun _ => ⟨rfl, rfl, rfl⟩⟩
  · exact ⟨rfl, rfl, rfl, rfl, rfl, rfl, rfl, rfl, rfl, rfl, rfl, fun hi => absurd rfl hi⟩

/-- Settles O52: a step that answers keeps the record, one that faults adds its fault, and a refusal would keep
it too. -/
theorem faultRecordOnlyGrows : Obligations.FaultRecordOnlyGrows := by
  intro s
  have hnext : ∀ t, step s = .next t → (recordingStep s).faults = s.faults := fun t h => by
    simpa only [recordingStep, h] using faults_of_step h
  have hfault : ∀ f, step s = .fault f → (recordingStep s).faults = s.faults ++ [f] := fun f h => by
    simp only [recordingStep, h, recordFault_faults, takeEvent_faults]
  have hgrows : ∃ l, (recordingStep s).faults = s.faults ++ l := by
    cases h : step s with
    | next t => exact ⟨[], by simpa using hnext t h⟩
    | fault f => exact ⟨[f], hfault f h⟩
    | refused r => exact ⟨[], by simp only [recordingStep, h, List.append_nil]⟩
  refine ⟨hgrows, hnext, hfault, ?_⟩
  rintro hne ⟨-, -, hnil⟩
  obtain ⟨l, hl⟩ := hgrows
  exact hne (List.append_eq_nil_iff.1 (hl.symm.trans hnil)).1

/-- Settles O56: of the steps that answer with BUSY = 0, only EngineStep and a reset start with BUSY = 1. -/
theorem busyFallsOnlyAtCompletionOrReset : Obligations.BusyFallsOnlyAtCompletionOrReset := by
  intro s t h hbusy hfalls
  cases answers_of_step h with
  | reset hev => exact .inl hev
  | write off d => cases (hostWrite_busy s.takeEvent off d hbusy).symm.trans hfalls
  | completes m c hev | expands w h hev => exact .inr ⟨hev, rfl⟩
  | read | idle => cases hbusy.symm.trans hfalls

/-- Settles O57: every step but a reset and a host write answers the DROP it found. -/
theorem dropIsSticky : Obligations.DropIsSticky := by
  intro s t h hdrop hcleared
  cases answers_of_step h with
  | reset hev => exact .inl hev
  | write off d hev =>
    obtain ⟨rfl, v, rfl, hv⟩ := hostWrite_clears_drop (s := s.takeEvent) hdrop hcleared
    exact .inr ⟨v, hev, hv⟩
  | read | idle | completes | expands => cases hdrop.symm.trans hcleared

end

section
/-!
PROOFS. Every 32-bit access to a register of the host window, and the values at reset (10_state.md R22 to R33, R39, R44).
-/

namespace Sys2Proof.Machine

/-- `off` is the aligned offset of register `r` in the register window (20_memory.md R65, R66; 10_state.md R22). -/
abbrev registerAt (off : Word) (r : RegName) : Prop :=
  off.toNat ≤ 0xFFF ∧ off.toNat % 4 = 0 ∧ decodeRegister off.toNat = r

theorem registerAt_operand (r : OperandReg) : registerAt (operandOffset r) (.operand r) := by
  cases r <;> decide

theorem registerAt_sched (i : Fin 60) : registerAt (BitVec.ofNat 32 (0x100 + 4 * i.val)) (.sched i) := by
  have e : (BitVec.ofNat 32 (0x100 + 4 * i.val)).toNat = 0x100 + 4 * i.val := by rw [BitVec.toNat_ofNat]; omega
  rw [registerAt, e]
  exact ⟨by omega, by omega, decodeRegister_sched i⟩

theorem registerAt_hsub (k : Fin 4) : registerAt (BitVec.ofNat 32 (0x1F0 + 4 * k.val)) (.hsub k) := by
  have e : (BitVec.ofNat 32 (0x1F0 + 4 * k.val)).toNat = 0x1F0 + 4 * k.val := by rw [BitVec.toNat_ofNat]; omega
  rw [registerAt, e]
  exact ⟨by omega, by omega, decodeRegister_hsub k⟩

theorem registerAt_reserved {off : Word}
    (h : 0x030 ≤ off.toNat ∧ off.toNat ≤ 0x0FC ∨ 0x200 ≤ off.toNat ∧ off.toNat ≤ 0xFFC) (ha : off.toNat % 4 = 0) :
    registerAt off .reserved :=
  ⟨by omega, ha, decodeRegister_reserved _ (by omega)⟩

/-- A step that takes a 32-bit host write of a register makes that write, and answers OKAY (20_memory.md R66). -/
theorem step_registerWrite {s : State} {rest : List Event} {off v : Word} {r : RegName} (hr : registerAt off r)
    (hs : s.script = .host (.write off (.b4 v)) :: rest) :
    step s = .next ((State.writeReg { s with script := rest } r v).respond .okayWrite) := by
  obtain ⟨hlt, halign, rfl⟩ := hr
  simp only [step_of_cons s _ rest hs, runEvent, hostStep, State.hostWrite, decodeWindow, if_pos hlt, if_pos halign]

/-- The response to a 32-bit read of a register (20_memory.md R66, R71 (3)). -/
def State.readResponse (s : State) (r : RegName) : HostResponse :=
  match s.readReg r with
  | some w => .okayRead (.b4 w)
  | none => .busErr

/-- A read of SCHED[i] gets BUSERR while a command runs, and shows W[i] where it may be seen (10_state.md R31). -/
theorem readResponse_sched (s : State) (i : Fin 60) :
    s.readResponse (.sched i) =
      if s.busy then .busErr else .okayRead (.b4 (if s.config.schedVisible then s.sched[i] else 0#32)) := by
  cases hb : s.busy <;> simp [State.readResponse, State.readReg, hb]

/-- A read of HSUB[k] gets BUSERR while a command runs, and shows its word of H where it may be seen (10_state.md R33). -/
theorem readResponse_hsub (s : State) (k : Fin 4) :
    s.readResponse (.hsub k) =
      if s.busy then .busErr else .okayRead (.b4 (if s.config.schedVisible then hsubWord s.hsub k else 0#32)) := by
  cases hb : s.busy <;> simp [State.readResponse, State.readReg, hb]

/-- A step that takes a 32-bit host read of a register hands the host its response and changes nothing (20_memory.md R66, R72). -/
theorem step_registerRead {s : State} {rest : List Event} {off : Word} {r : RegName} (hr : registerAt off r)
    (hs : s.script = .host (.read off .b4) :: rest) :
    step s = .next (State.respond { s with script := rest } (State.readResponse { s with script := rest } r)) := by
  obtain ⟨hlt, halign, rfl⟩ := hr
  have hok : registerAccessOk off.toNat .b4 = true := by simp [registerAccessOk, halign]
  simp only [step_of_cons s _ rest hs, runEvent, hostStep, State.hostRead, decodeWindow, if_pos hlt, hok, if_true,
    State.readResponse]
  cases State.readReg { s with script := rest } (decodeRegister off.toNat) <;> rfl

/-- A field of one bit is that bit, and 0 elsewhere. -/
theorem getLsbD_flagAt {n i : Nat} (b : Bool) (hi : i < 32) : (flagAt n b).getLsbD i = (decide (i = n) && b) := by
  have hsub : n ≤ i → (i - n = 0 ↔ i = n) := by omega
  cases b
  · simp [flagAt]
  · by_cases h : n ≤ i
    · simp [flagAt, hi, hsub h, Nat.not_lt.2 h]
    · simp [flagAt, Nat.lt_of_not_le h, show i ≠ n by omega]

/-- Bit i of STATUS, by the fields of 10_state.md R24. -/
def State.statusBit (s : State) (i : Nat) : Bool :=
  decide (16 ≤ i) && s.lastop.getLsbD (i - 16) || decide (8 ≤ i) && s.errcode.bits.getLsbD (i - 8) ||
    decide (i = 4) && s.drop || decide (i = 3) && s.keyValid || decide (i = 2) && s.err || decide (i = 1) && s.done ||
    decide (i = 0) && s.busy

theorem getLsbD_status (s : State) {i : Nat} (hi : i < 32) : s.status.getLsbD i = s.statusBit i := by
  have hge : ∀ n, (!decide (i < n)) = decide (n ≤ i) := fun n => by rw [← decide_not, decide_eq_decide, Nat.not_lt]
  simp only [State.status, State.statusBit, BitVec.getLsbD_or, getLsbD_flagAt _ hi, BitVec.getLsbD_shiftLeft,
    BitVec.getLsbD_setWidth, hi, hge, show i - 16 < 32 by omega, show i - 8 < 32 by omega, decide_true, Bool.true_and]

/-- A field of STATUS at bit n, by its bits. -/
theorem extractLsb'_status (s : State) {n w : Nat} (hnw : n + w ≤ 32) (f : BitVec w)
    (h : ∀ i < w, s.statusBit (n + i) = f.getLsbD i) : s.status.extractLsb' n w = f := by
  apply BitVec.eq_of_getLsbD_eq
  intro i hi
  rw [BitVec.getLsbD_extractLsb', decide_eq_true hi, Bool.true_and, getLsbD_status s (by omega), h i hi]

/-- Clearing a flag by a bit that is written as 1 (10_state.md R25). -/
theorem and_not_eq_ite (b c : Bool) : (b && !c) = if c then false else b := by
  cases c <;> simp

/-- STATUS is 0 after a reset: it shows no field that a reset keeps (10_state.md R44). -/
theorem resetEngine_status (s : State) : s.resetEngine.status = 0#32 :=
  calc s.resetEngine.status = State.reset.status := rfl
    _ = 0#32 := rfl

/-- Every operand register is 0 at reset (10_state.md R44). -/
theorem operandRegs_get_reset (r : OperandReg) : OperandRegs.reset.get r = 0#32 := by
  cases r <;> rfl

/-- The buffer size fits into the 32 bits of CAPS (10_state.md R27). -/
theorem caps_toNat (s : State) : s.caps.toNat = s.config.bufSize := by
  have := bufSize_bounds s.config
  rw [State.caps, BitVec.toNat_ofNat, Nat.mod_eq_of_lt (by omega)]

end Sys2Proof.Machine

open Sys2Proof Sys2Proof.Machine

/-- Settles O38, by BUSY: an accepted word is latched, and a write while a command runs sets DROP. -/
theorem cmdAcceptsOrDrops : Obligations.CmdAcceptsOrDrops := by
  intro s rest
  have hr : registerAt 0x000#32 .cmd := by decide
  refine ⟨fun v hs => ⟨fun hb => ?_, fun hb => ?_⟩, step_registerRead hr⟩
  · simp only [step_registerWrite hr hs, State.writeReg, hb, Bool.false_eq_true, if_false]
    rfl
  · simp only [step_registerWrite hr hs, State.writeReg, hb, if_true]
    rfl

/-- Settles O40: STATUS is one of the registers of the window, and what a write of it does has no case on BUSY. -/
theorem statusWriteClearsDoneAndDrop : Obligations.StatusWriteClearsDoneAndDrop := by
  intro s rest v hs
  rw [step_registerWrite (r := .status) (by decide) hs, ← and_not_eq_ite, ← and_not_eq_ite]
  rfl

/-- Settles O41: CTRL, CAPS and the reserved offsets are registers of the window like any other. -/
theorem ctrlCapsAndReservedAccesses : Obligations.CtrlCapsAndReservedAccesses := by
  intro s rest v off
  have hctrl : registerAt 0x008#32 .ctrl := by decide
  have hcaps : registerAt 0x00C#32 .caps := by decide
  refine ⟨step_registerWrite hctrl, fun hs => ⟨_, step_registerRead hctrl hs, ?_, ?_⟩, step_registerWrite hcaps,
    fun hs => ⟨_, step_registerRead hcaps hs, caps_toNat s⟩, fun hrange halign => ?_⟩
  · exact (getLsbD_flagAt s.ie (by decide)).trans (Bool.true_and _)
  · apply BitVec.eq_of_getLsbD_eq
    intro i hi
    simp [State.ctrl, hi, getLsbD_flagAt s.ie (show 1 + i < 32 by omega)]
  · have hres := registerAt_reserved hrange halign
    exact ⟨step_registerRead hres, step_registerWrite hres⟩

/-- Settles O42: the new register file is the old one with the one register set. -/
theorem operandRegisterAccesses : Obligations.OperandRegisterAccesses := by
  intro s rest r v
  have hr := registerAt_operand r
  refine ⟨fun hs => ⟨fun hb => ?_, fun hb => ?_⟩, step_registerRead hr⟩
  · refine ⟨s.opr.set r v, operandRegs_get_set_same _ _ _, fun q hq => operandRegs_get_set_other _ _ _ _ hq, ?_⟩
    simp only [step_registerWrite hr hs, State.writeReg, hb, Bool.false_eq_true, if_false]
    rfl
  · simp only [step_registerWrite hr hs, State.writeReg, hb, if_true]
    rfl

/-- Settles O43: BUSY decides the response to a read, and a write does nothing. -/
theorem schedAndHsubReadback : Obligations.SchedAndHsubReadback := by
  intro s rest i k v
  have hi := registerAt_sched i
  have hk := registerAt_hsub k
  refine ⟨fun hs => ?_, step_registerWrite hi, fun hs => ?_, step_registerWrite hk⟩
  · rw [step_registerRead hi hs, readResponse_sched]
    exact ⟨fun hb => by simp only [hb]; rfl, fun hb => by simp only [hb]; rfl⟩
  · rw [step_registerRead hk hs, readResponse_hsub]
    exact ⟨fun hb => by simp only [hb]; rfl, fun hb => by simp only [hb]; rfl⟩

/-- Settles O39, bit by bit: ERRCODE and LASTOP have no bits above their own widths, and no field lies in a reserved bit. -/
theorem statusReadShowsFields : Obligations.StatusReadShowsFields := by
  refine ⟨⟨rfl, rfl, rfl, rfl, rfl, rfl, rfl, rfl, rfl, rfl⟩, fun s rest hs => ?_⟩
  refine ⟨s.status, step_registerRead (r := .status) (by decide) hs, ?_, ?_, ?_, ?_, ?_,
    extractLsb'_status s (by decide) _ fun i hi => ?_, extractLsb'_status s (by decide) _ fun i hi => ?_,
    extractLsb'_status s (by decide) _ fun i hi => ?_, extractLsb'_status s (by decide) _ fun i hi => ?_,
    extractLsb'_status s (by decide) _ fun i hi => ?_⟩
  iterate 5 · rw [getLsbD_status s (by decide)]; simp [State.statusBit, State.err, bne, Bool.beq_eq_decide_eq]
  iterate 5 · interval_cases i <;> simp [State.statusBit]

/-- Settles O44: each clause is an equation of the step that answers `t`. -/
theorem interruptFollowsDoneAndIe : Obligations.InterruptFollowsDoneAndIe := by
  intro s t
  refine ⟨rfl, fun i h => ?_, fun v rest hs hv h => ?_, fun v rest hs hb h => ?_, fun v rest hs h => ?_, fun rest hs h => ?_⟩
  · obtain ⟨-, hdone, -, hie, -⟩ := commandFrame s t i h
    rw [State.irq, hdone, hie, Bool.and_true]
  · rw [step_registerWrite (r := .status) (by decide) hs] at h
    cases h
    simp [State.irq, State.writeReg, hv]
  · rw [step_registerWrite (r := .cmd) (by decide) hs] at h
    cases h
    simp [State.irq, State.writeReg, hb]
  · rw [step_registerWrite (r := .ctrl) (by decide) hs] at h
    cases h
    simp [State.irq, State.writeReg]
  · rw [step_of_cons s _ rest hs] at h
    cases h
    rfl

/-- Settles O53, field by field. -/
theorem resetEventClearsEngine : Obligations.ResetEventClearsEngine := by
  intro s rest hs
  exact ⟨_, step_of_cons s _ rest hs, resetEngine_status _, rfl, operandRegs_get_reset, rfl,
    fun _ hi => Vector.getElem_replicate hi, fun _ hk => Vector.getElem_replicate hk, rfl, rfl, rfl, fun _ => rfl, rfl, rfl, rfl,
    rfl⟩

/-- Settles O54, field by field. -/
theorem resetStateValues : Obligations.ResetStateValues :=
  ⟨rfl, rfl, rfl, operandRegs_get_reset, rfl, fun _ hi => Vector.getElem_replicate hi,
    fun _ hk => Vector.getElem_replicate hk, rfl, rfl, fun _ => rfl⟩

/-- Settles O60: nothing runs, no byte is defined, and KEY_VALID is 0. -/
theorem resetMeetsMachineInvariant : Obligations.ResetMeetsMachineInvariant where
  buf := ⟨.nil, by simp⟩
  running := by simp [State.runningOk]
  lastop := rfl
  errcode := by simp [State.errcodeOk]
  inst := ⟨by simp, fun _ => ⟨rfl, rfl⟩⟩

end

section
/-!
PROOFS. The invariant of the machine along every step (20_memory.md R60, 10_state.md R23, R30, R34, R35, 41_key_expansion.md R157,
60_exceptions.md R270), and the buffer bytes a command reads and writes (20_memory.md R62, R63, R73).
-/

namespace Sys2Proof.Machine

/-- A read that answers gives the whole region, as the state holds it (20_memory.md R62). -/
theorem memRead_ok {s : State} {a n : Nat} {l : Bytes} (h : s.memRead a n = .ok l) : l.length = n ∧ s.holds a l := by
  rcases memRead_cases s a n with ⟨l', hl, hlen, hholds⟩ | ⟨x, -, he, -⟩
  · rw [hl] at h
    cases h
    exact ⟨hlen, hholds⟩
  · rw [he] at h
    cases h

/-- A read that answers meets no undefined byte (20_memory.md R62). -/
theorem read_ne_none_of_memRead_ok {s : State} {a n x : Nat} {l : Bytes} (h : s.memRead a n = .ok l) (hx : inRegion (a, n) x) :
    Memory.read s.buf x ≠ none := by
  obtain ⟨rfl, hholds⟩ := memRead_ok h
  rw [read_of_holds s a l x hholds hx.1 hx.2]
  exact Option.some_ne_none _

/-! ### What keeps the invariant -/

/-- No check answers the reserved code 4 (60_exceptions.md R270). -/
theorem checkOperands_ne_reserved (i : Instr) (s : State) :
    s.checkOperands (operandsOf i s) ≠ .internalInvariantViolation :=
  check_ne_reserved _ _ _ fun e he => by rcases operandsOf_lengthError i s e he with rfl | rfl | rfl <;> decide

/-- The invariant says nothing of the environment. -/
theorem inv_withEnvironment {s : State} (h : s.Inv) (script : List Event) (responses : List HostResponse) :
    State.Inv { s with script := script, responses := responses } :=
  ⟨h.buf, h.running, h.lastop, h.errcode, h.inst⟩

/-- Strings written inside BUF keep the invariant (20_memory.md R60, R63). -/
theorem inv_writeAll {s : State} (h : s.Inv) {ws : List (Nat × Bytes)} (hws : ∀ p ∈ ws, s.fits p.1 p.2.length) :
    State.Inv { s with buf := ws.foldl (fun m p => Memory.writeBytes m p.1 p.2) s.buf } :=
  ⟨memory_writeAll_ok ws s.config.bufSize s.buf h.buf hws, h.running, h.lastop, h.errcode, h.inst⟩

/-- Completion with a code other than 4 keeps the invariant: nothing runs after it. -/
theorem inv_complete {s : State} (h : s.Inv) {c : ResultCode} (hc : c ≠ .internalInvariantViolation) : (s.complete c).Inv :=
  ⟨h.buf, nofun, h.lastop, hc, h.inst⟩

/-- Installing the schedule of a 32-byte key, with its H, keeps the invariant (41_key_expansion.md R156, R157). -/
theorem inv_install {s : State} (h : s.Inv) {k : Bytes} {w : Schedule} (hk : k.length = 32) (hw : expand k = some w) :
    (s.install w (cipher w Block.zero)).Inv :=
  ⟨h.buf, h.running, h.lastop, h.errcode, fun _ => ⟨k, hk, hw, rfl⟩, nofun⟩

/-- A reset leaves the values of 10_state.md R44. -/
theorem inv_resetEngine (s : State) : s.resetEngine.Inv := by
  obtain ⟨-, hrunning, hlastop, herrcode, hinst⟩ := resetMeetsMachineInvariant
  exact ⟨⟨.nil, nofun⟩, hrunning, hlastop, herrcode, hinst⟩

/-- The invariant says nothing of DROP. -/
theorem inv_dropWrite {s : State} (h : s.Inv) : s.dropWrite.Inv :=
  ⟨h.buf, h.running, h.lastop, h.errcode, h.inst⟩

/-- A register write keeps the invariant: CMD sets LATCH, LASTOP, DONE and ERRCODE together with BUSY, and a write of STATUS can
only clear DONE (10_state.md R23, R25). -/
theorem inv_writeReg {s : State} (h : s.Inv) (r : RegName) (v : Word) : (s.writeReg r v).Inv := by
  cases r with
  | cmd =>
    have haccept : (s.accept v).Inv := ⟨h.buf, fun _ => ⟨rfl, rfl⟩, rfl, nofun, h.inst⟩
    simp only [State.writeReg]
    split
    · exact inv_dropWrite h
    · exact haccept
  | operand r =>
    have hset : (s.setOperand r v).Inv := ⟨h.buf, h.running, h.lastop, h.errcode, h.inst⟩
    simp only [State.writeReg]
    split
    · exact inv_dropWrite h
    · exact hset
  | status =>
    refine ⟨h.buf, fun hb => ?_, h.lastop, h.errcode, h.inst⟩
    obtain ⟨hdone, herrcode⟩ := h.running hb
    exact ⟨by simp [State.writeReg, hdone], herrcode⟩
  | ctrl => exact ⟨h.buf, h.running, h.lastop, h.errcode, h.inst⟩
  | caps | sched | hsub | reserved => exact h

/-- An aligned access that starts in BUF ends in it (20_memory.md R68; 00_scope.md R9). -/
theorem add_bytes_le_bufSize {c : Config} {a : Nat} (z : AccessSize) (ha : a < c.bufSize) (halign : a % z.bytes = 0) :
    a + z.bytes ≤ c.bufSize := by
  obtain ⟨-, -, hmod⟩ := bufSize_bounds c
  cases z <;> simp only [AccessSize.bytes] at * <;> omega

/-- A host write keeps the invariant. -/
theorem inv_hostWrite {s : State} (h : s.Inv) (off : Word) (d : HostData) : (s.hostWrite off d).1.Inv := by
  rcases hostWrite_cases s off d with hw | ⟨v, -, -, -, hw⟩ | ⟨-, hw⟩ | ⟨-, a, -, ha, halign, hw⟩ <;> rw [hw]
  · exact h
  · exact inv_writeReg h _ v
  · exact inv_dropWrite h
  · have hfits : s.fits a d.toBytes.length := .inr (by simpa using add_bytes_le_bufSize d.size ha halign)
    exact inv_writeAll h (ws := [(a, d.toBytes)]) (by simpa using hfits)

/-- A command that answers keeps the invariant: its checks have passed before it writes, so its outputs lie in BUF. -/
theorem inv_exec {i : Instr} {s t : State} (h : s.Inv) (hx : exec i s = .next t) : t.Inv := by
  rcases exec_next_cases i s t hx with ⟨-, rfl⟩ | ⟨hc, u, c, hb, rfl⟩
  · exact inv_complete h (checkOperands_ne_reserved i s)
  obtain ⟨-, -, hfits, -⟩ := (checkOperands_eq_ok_iff_admits i s).1 hc
  rcases bodyOf_ok i s u c hb with ⟨-, rfl, ws, hws, rfl⟩ | ⟨-, rfl, rfl⟩ | ⟨-, rfl, k, w, hk, hw, rfl⟩
  · refine inv_complete (inv_writeAll h fun p hp => ?_) nofun
    exact hfits _ (List.mem_append_right _ ((operandsOf_mem_outputs_iff i s _).1 (hws p hp)))
  · exact inv_complete h nofun
  · exact inv_complete (inv_install h (memRead_ok hk).1 hw) nofun

/-- The engine's turn keeps the invariant. -/
theorem inv_engineTurn {s t : State} (h : s.Inv) (hx : engineTurn s = .next t) : t.Inv := by
  rcases engineTurn_next s t hx with ⟨-, rfl⟩ | ⟨-, ⟨i, -, hi⟩ | rfl⟩
  · exact h
  · exact inv_exec h hi
  · exact inv_complete h nofun

/-- A host transaction keeps the invariant. -/
theorem inv_hostStep {s t : State} {tx : HostTx} (h : s.Inv) (hx : hostStep tx s = .next t) : t.Inv := by
  rcases hostStep_next tx s t hx with ⟨off, z, r, -, rfl⟩ | ⟨off, d, -, rfl⟩
  · exact inv_withEnvironment h _ _
  · exact inv_withEnvironment (inv_hostWrite h off d) _ _

/-! ### What a command that completes has read -/

/-- A sequence that answers does so in both its parts. -/
theorem bind_ok {α β : Type} {x : Except Fault α} {g : α → Except Fault β} {b : β} (h : x >>= g = .ok b) :
    ∃ a, x = .ok a ∧ g a = .ok b := by
  cases x with
  | error e => cases h
  | ok a => exact ⟨a, rfl, h⟩

/-- Where the length check passes, a body that answers has read every input region of the table. -/
theorem memRead_ok_of_bodyOf_ok {i : Instr} {s : State} {p : State × ResultCode} (hlen : tableLengthOk i s.opr)
    (h : bodyOf i s = .ok p) : ∀ r ∈ tableInputs i s.opr, ∃ l, s.memRead r.1 r.2 = .ok l := by
  obtain ⟨hkey, hblock, hnonce⟩ := hlen
  cases i with
  | keyexp =>
    obtain ⟨k, hk, -⟩ := bind_ok h
    simp [tableInputs, hkey rfl, hk]
  | enc =>
    obtain ⟨b, hb, -⟩ := bind_ok h
    simp [tableInputs, hblock (.inl rfl), hb]
  | dec =>
    obtain ⟨b, hb, -⟩ := bind_ok h
    simp [tableInputs, hblock (.inr rfl), hb]
  | gcmEnc =>
    obtain ⟨p, hp, h⟩ := bind_ok h
    obtain ⟨a, ha, h⟩ := bind_ok h
    obtain ⟨n, hn, -⟩ := bind_ok h
    simp [tableInputs, hnonce (.inl rfl), hp, ha, hn]
  | gcmDec =>
    obtain ⟨c, hc, h⟩ := bind_ok h
    obtain ⟨a, ha, h⟩ := bind_ok h
    obtain ⟨n, hn, h⟩ := bind_ok h
    obtain ⟨t, ht, -⟩ := bind_ok h
    simp [tableInputs, hnonce (.inr rfl), hc, ha, hn, ht]
  | ghash =>
    obtain ⟨a, ha, h⟩ := bind_ok h
    obtain ⟨c, hc, -⟩ := bind_ok h
    simp [tableInputs, ha, hc]
  | gfmul8 =>
    obtain ⟨x, hx, -⟩ := bind_ok h
    simp [tableInputs, hx]
  | gfmul128 =>
    obtain ⟨x, hx, -⟩ := bind_ok h
    simp [tableInputs, hx]

/-- An admitted command that completes has had no undefined input byte (20_memory.md R62). -/
theorem read_ne_none_of_exec_next {i : Instr} {s t : State} (hadm : s.admits i) (hx : exec i s = .next t) :
    ∀ r ∈ tableInputs i s.opr, ∀ x, inRegion r x → Memory.read s.buf x ≠ none := by
  intro r hr x hin
  have hok := (checkOperands_eq_ok_iff_admits i s).2 hadm
  obtain ⟨-, hlen, -, -⟩ := hadm
  rcases exec_next_cases i s t hx with ⟨hc, -⟩ | ⟨-, u, c, hb, -⟩
  · exact absurd hok hc
  · obtain ⟨l, hl⟩ := memRead_ok_of_bodyOf_ok hlen hb r hr
    exact read_ne_none_of_memRead_ok hl hin

end Sys2Proof.Machine

open Sys2Proof Sys2Proof.Machine

/-- Settles O59, by the four kinds of step. -/
theorem stepKeepsMachineInvariant : Obligations.StepKeepsMachineInvariant := by
  intro s t h hstep
  rcases step_cases s with ⟨-, hs⟩ | ⟨rest, -, hs⟩ | ⟨tx, rest, -, hs⟩ | ⟨rest, -, hs⟩ <;> rw [hs] at hstep
  · exact inv_engineTurn h hstep
  · exact inv_engineTurn (inv_withEnvironment h rest _) hstep
  · exact inv_hostStep (inv_withEnvironment h rest _) hstep
  · cases hstep
    exact inv_resetEngine _

/-- Settles O11: a command that answers has written strings to its output regions, or nothing at all. -/
theorem commandWritesOnlyItsOutputs : Obligations.CommandWritesOnlyItsOutputs := by
  intro s t i hx x hout
  rcases exec_next_cases i s t hx with ⟨-, rfl⟩ | ⟨-, u, c, hb, rfl⟩
  · rfl
  rcases bodyOf_ok i s u c hb with ⟨-, -, ws, hws, rfl⟩ | ⟨-, -, rfl⟩ | ⟨-, -, k, w, -, -, rfl⟩
  · exact memory_read_writeAll_outside ws s.buf x fun p hp => hout _ ((operandsOf_mem_outputs_iff i s _).1 (hws p hp))
  · rfl
  · rfl

/-- Settles O12, by the two things a command can come to. -/
theorem commandFaultsOnlyOnUndefinedInput : Obligations.CommandFaultsOnlyOnUndefinedInput := by
  intro s i f hx
  rcases exec_completes_or_faults i s with ⟨t, ht, -⟩ | ⟨hadm, x, hfault, hinput⟩
  · cases hx.symm.trans ht
  · cases hx.symm.trans hfault
    exact ⟨hadm, x, rfl, hinput⟩

/-- Settles O13: an admitted command does not complete without its inputs, and all else it can come to is such a fault. -/
theorem undefinedInputFaults : Obligations.UndefinedInputFaults := by
  rintro s i hadm ⟨r, hr, x, hin, hnone⟩
  rcases exec_completes_or_faults i s with ⟨t, ht, -⟩ | ⟨-, hfault⟩
  · exact absurd hnone (read_ne_none_of_exec_next hadm ht r hr x hin)
  · exact hfault

end

section
/-!
PROOFS. Host accesses by the window they fall into (20_memory.md R65 to R71), and what a host can see and change while a command
runs (20_memory.md R71, R72; 10_state.md R28).
-/

namespace Sys2Proof.Machine

/-! ### The step of a host transaction -/

/-- A step that takes a host write makes it and hands the host its response. -/
theorem step_hostWrite {s t : State} {rest : List Event} {off : Word} {d : HostData} {r : HostResponse}
    (hs : s.script = .host (.write off d) :: rest) (hw : State.hostWrite { s with script := rest } off d = (t, r)) :
    step s = .next (t.respond r) := by
  simp only [step_of_cons s _ rest hs, runEvent, hostStep, hw]

/-- A step that takes a host read with a response hands the host that response and changes nothing. -/
theorem step_hostRead {s : State} {rest : List Event} {off : Word} {z : AccessSize} {r : HostResponse}
    (hs : s.script = .host (.read off z) :: rest) (hr : State.hostRead { s with script := rest } off z = .ok r) :
    step s = .next (State.respond { s with script := rest } r) := by
  simp only [step_of_cons s _ rest hs, runEvent, hostStep, hr]

/-- A step that takes a host read with a model fault is that fault. -/
theorem step_hostRead_error {s : State} {rest : List Event} {off : Word} {z : AccessSize} {f : Fault}
    (hs : s.script = .host (.read off z) :: rest) (hr : State.hostRead { s with script := rest } off z = .error f) :
    step s = .fault f := by
  simp only [step_of_cons s _ rest hs, runEvent, hostStep, hr]

/-! ### The windows (20_memory.md R65) -/

theorem decodeWindow_eq_register (c : Config) {off : Word} (h : off.toNat ≤ 0xFFF) : decodeWindow c off = .register off.toNat :=
  if_pos h

theorem decodeWindow_eq_buffer {c : Config} {off : Word} (h1 : 0x10000 ≤ off.toNat) (h2 : off.toNat < 0x10000 + c.bufSize) :
    decodeWindow c off = .buffer (off.toNat - 0x10000) := by
  rw [decodeWindow, if_neg (by omega), if_pos ⟨h1, h2⟩]

theorem decodeWindow_eq_unmapped {c : Config} {off : Word}
    (h : 0x1000 ≤ off.toNat ∧ off.toNat < 0x10000 ∨ 0x10000 + c.bufSize ≤ off.toNat) : decodeWindow c off = .unmapped := by
  rw [decodeWindow, if_neg (by omega), if_neg (by omega)]

section Accesses

variable {s : State} {off : Word}

/-- A register is read with 32 bits and aligned, or not at all (20_memory.md R66). -/
theorem hostRead_malformed {o : Nat} {z : AccessSize} (hw : decodeWindow s.config off = .register o)
    (h : z ≠ .b4 ∨ o % 4 ≠ 0) : s.hostRead off z = .ok .busErr := by
  have hbad : registerAccessOk o z = false := by simpa [registerAccessOk, imp_iff_not_or] using h
  simp only [State.hostRead, hw, hbad, Bool.false_eq_true, if_false]

/-- A register is written with 32 bits and aligned, or not at all (20_memory.md R66). -/
theorem hostWrite_malformed {o : Nat} {d : HostData} (hw : decodeWindow s.config off = .register o)
    (h : d.size ≠ .b4 ∨ o % 4 ≠ 0) : s.hostWrite off d = (s, .busErr) := by
  cases d with
  | b1 v | b2 v => simp only [State.hostWrite, hw]
  | b4 v =>
    have halign : o % 4 ≠ 0 := h.resolve_left (not_not_intro rfl)
    simp only [State.hostWrite, hw, if_neg halign]

/-- An unmapped offset is not read (20_memory.md R70). -/
theorem hostRead_unmapped (z : AccessSize) (hw : decodeWindow s.config off = .unmapped) : s.hostRead off z = .ok .busErr := by
  simp only [State.hostRead, hw]

/-- An unmapped offset is not written (20_memory.md R70). -/
theorem hostWrite_unmapped (d : HostData) (hw : decodeWindow s.config off = .unmapped) :
    s.hostWrite off d = (s, .busErr) := by
  simp only [State.hostWrite, hw]

section Buffer

variable {a : Nat} (hw : decodeWindow s.config off = .buffer a)
include hw

/-- The buffer is not read while a command runs (20_memory.md R71 (1)). -/
theorem hostRead_buffer_busy (z : AccessSize) (hb : s.busy = true) : s.hostRead off z = .ok .busErr := by
  simp only [State.hostRead, hw, hb, if_true]

/-- A buffer write is dropped while a command runs, misaligned or not (20_memory.md R71 (2); log 7). -/
theorem hostWrite_buffer_busy (d : HostData) (hb : s.busy = true) : s.hostWrite off d = (s.dropWrite, .busErr) := by
  simp only [State.hostWrite, hw, hb, if_true]

/-- A misaligned buffer read (20_memory.md R69). -/
theorem hostRead_buffer_misaligned {z : AccessSize} (hb : s.busy = false) (h : a % z.bytes ≠ 0) :
    s.hostRead off z = .ok .busErr := by
  simp only [State.hostRead, hw, hb, Bool.false_eq_true, if_false, if_neg h]

/-- A misaligned buffer write (20_memory.md R69). -/
theorem hostWrite_buffer_misaligned {d : HostData} (hb : s.busy = false) (h : a % d.size.bytes ≠ 0) :
    s.hostWrite off d = (s, .busErr) := by
  simp only [State.hostWrite, hw, hb, Bool.false_eq_true, if_false, if_neg h]

/-- An aligned buffer read of defined bytes (20_memory.md R67). -/
theorem hostRead_buffer_aligned {z : AccessSize} {l : Bytes} (hb : s.busy = false) (h : a % z.bytes = 0)
    (hl : s.memRead a z.bytes = .ok l) : s.hostRead off z = .ok (.okayRead (HostData.ofBytes z l)) := by
  simp only [State.hostRead, hw, hb, Bool.false_eq_true, if_false, if_pos h, hl]

/-- An aligned buffer read that meets an undefined byte (20_memory.md R67, R73). -/
theorem hostRead_buffer_undefined {z : AccessSize} {f : Fault} (hb : s.busy = false) (h : a % z.bytes = 0)
    (hf : s.memRead a z.bytes = .error f) : s.hostRead off z = .error f := by
  simp only [State.hostRead, hw, hb, Bool.false_eq_true, if_false, if_pos h, hf]

/-- An aligned buffer write (20_memory.md R68). -/
theorem hostWrite_buffer_aligned {d : HostData} (hb : s.busy = false) (h : a % d.size.bytes = 0) :
    s.hostWrite off d = (s.memWrite a d.toBytes, .okayWrite) := by
  simp only [State.hostWrite, hw, hb, Bool.false_eq_true, if_false, if_pos h]

end Buffer

end Accesses

/-- Host data made of the bytes the state holds has those bytes, the first one most significant (20_memory.md R67). -/
theorem read_eq_byteOfValue {s : State} {a : Nat} {z : AccessSize} {l : Bytes} (hlen : l.length = z.bytes) (hl : s.holds a l)
    {k : Nat} (hk : k < z.bytes) :
    Memory.read s.buf (a + k) = some (byteOfValue z.bytes (HostData.ofBytes z l).toNat k) := by
  obtain ⟨hsize, hbytes⟩ := hostData_ofBytes z l hlen
  have hbyte := hostData_toBytes_getElem (HostData.ofBytes z l) k (by rw [hbytes, hlen]; exact hk)
  rw [hl k (by rw [hlen]; exact hk)]
  simpa only [hbytes, hsize, Option.some.injEq] using hbyte

/-! ### While a command runs (20_memory.md R71) -/

/-- The state with other contents in what a running command keeps to itself: BUF, W and H. -/
def State.withHidden (s : State) (b : Memory) (w : Schedule) (h : Block) : State := { s with buf := b, sched := w, hsub := h }

@[simp] theorem withHidden_busy (s : State) (b : Memory) (w : Schedule) (h : Block) : (s.withHidden b w h).busy = s.busy := rfl

/-- A register write neither reads nor writes BUF, W or H. -/
theorem writeReg_withHidden (s : State) (r : RegName) (v : Word) (b : Memory) (w : Schedule) (h : Block) :
    (s.withHidden b w h).writeReg r v = (s.writeReg r v).withHidden b w h := by
  cases r with
  | cmd | operand r =>
    cases hb : s.busy <;> simp only [State.writeReg, withHidden_busy, hb, Bool.false_eq_true, if_true, if_false] <;> rfl
  | status | ctrl | caps | sched | hsub | reserved => rfl

section Running

variable {s : State} (hb : s.busy = true)
include hb

/-- A register read while a command runs does not see BUF, W or H: SCHED and HSUB are closed (20_memory.md R71 (3)). -/
theorem readReg_withHidden (r : RegName) (b : Memory) (w : Schedule) (h : Block) :
    (s.withHidden b w h).readReg r = s.readReg r := by
  cases r with
  | sched | hsub => simp only [State.readReg, withHidden_busy, hb, if_true]
  | cmd | status | ctrl | caps | operand | reserved => rfl

/-- A host read while a command runs has a response, and it does not depend on BUF, W or H. -/
theorem hostRead_of_busy (off : Word) (z : AccessSize) :
    ∃ r, ∀ b w h, (s.withHidden b w h).hostRead off z = .ok r := by
  cases hw : decodeWindow s.config off with
  | register o =>
    by_cases hok : z = .b4 ∧ o % 4 = 0
    · refine ⟨s.readResponse (decodeRegister o), fun b w h => ?_⟩
      have hok' : registerAccessOk o z = true := by simpa [registerAccessOk] using hok
      have hw' : decodeWindow (s.withHidden b w h).config off = .register o := hw
      simp only [State.hostRead, hw', hok', if_true, readReg_withHidden hb, State.readResponse]
      cases s.readReg (decodeRegister o) <;> rfl
    · exact ⟨.busErr, fun b w h => hostRead_malformed (s := s.withHidden b w h) hw (not_and_or.1 hok)⟩
  | buffer a => exact ⟨.busErr, fun b w h => hostRead_buffer_busy (s := s.withHidden b w h) hw z hb⟩
  | unmapped => exact ⟨.busErr, fun b w h => hostRead_unmapped (s := s.withHidden b w h) z hw⟩

/-- A host write while a command runs neither reads nor writes BUF, W or H, and its response does not depend on them. -/
theorem hostWrite_withHidden (off : Word) (d : HostData) (b : Memory) (w : Schedule) (h : Block) :
    (s.withHidden b w h).hostWrite off d = ((s.hostWrite off d).1.withHidden b w h, (s.hostWrite off d).2) := by
  cases hw : decodeWindow s.config off with
  | register o =>
    by_cases hok : d.size = .b4 ∧ o % 4 = 0
    · obtain ⟨hsize, halign⟩ := hok
      have hw' : decodeWindow (s.withHidden b w h).config off = .register o := hw
      cases d with
      | b1 | b2 => cases hsize
      | b4 v => simp only [State.hostWrite, hw, hw', if_pos halign, writeReg_withHidden]
    · rw [hostWrite_malformed hw (not_and_or.1 hok),
        hostWrite_malformed (s := s.withHidden b w h) hw (not_and_or.1 hok)]
  | buffer a =>
    rw [hostWrite_buffer_busy hw d hb, hostWrite_buffer_busy (s := s.withHidden b w h) hw d hb]
    rfl
  | unmapped => rw [hostWrite_unmapped d hw, hostWrite_unmapped (s := s.withHidden b w h) d hw]

/-- A register write while a command runs changes no operand register and not LATCH (10_state.md R23, R28). -/
theorem writeReg_of_busy (r : RegName) (v : Word) : (s.writeReg r v).opr = s.opr ∧ (s.writeReg r v).latch = s.latch := by
  cases r with
  | cmd | operand r => simp [State.writeReg, hb]
  | status | ctrl | caps | sched | hsub | reserved => exact ⟨rfl, rfl⟩

/-- A host write while a command runs changes neither BUF nor an operand register nor LATCH. -/
theorem hostWrite_of_busy (off : Word) (d : HostData) :
    (s.hostWrite off d).1.buf = s.buf ∧ (s.hostWrite off d).1.opr = s.opr ∧ (s.hostWrite off d).1.latch = s.latch := by
  rcases hostWrite_cases s off d with hw | ⟨v, -, -, -, hw⟩ | ⟨-, hw⟩ | ⟨hidle, -⟩
  · rw [hw]
    exact ⟨rfl, rfl, rfl⟩
  · rw [hw]
    obtain ⟨-, -, -, -, hbuf, -⟩ := writeReg_frame s (decodeRegister off.toNat) v
    exact ⟨hbuf, writeReg_of_busy hb _ v⟩
  · rw [hw]
    exact ⟨rfl, rfl, rfl⟩
  · cases hb.symm.trans hidle

end Running

end Sys2Proof.Machine

open Sys2Proof Sys2Proof.Machine

/-- Settles O45: the check of the access comes before the register is looked at (log 8). -/
theorem malformedRegisterAccessIsBusErr : Obligations.MalformedRegisterAccessIsBusErr := by
  intro s rest off hoff
  have hw := decodeWindow_eq_register s.config hoff
  exact ⟨fun z hs h => step_hostRead hs (hostRead_malformed hw h), fun d hs h => step_hostWrite hs (hostWrite_malformed hw h)⟩

/-- Settles O46: the bytes written are the bytes of the value. -/
theorem bufferWriteIsBigEndian : Obligations.BufferWriteIsBigEndian := by
  intro s rest a d hs ha halign hb
  have hw := decodeWindow_buffer s.config a ha
  refine ⟨_, step_hostWrite hs (hostWrite_buffer_aligned (s := { s with script := rest }) hw hb halign), ?_, ?_, rfl⟩
  · intro k hk
    have hk' : k < d.toBytes.length := by rwa [hostData_toBytes_length]
    rw [← hostData_toBytes_getElem d k hk']
    exact memory_read_writeBytes_inside s.buf a d.toBytes k hk'
  · intro x hx
    exact memory_read_writeAll_outside [(a, d.toBytes)] s.buf x (by simpa using hx)

/-- Settles O47, by what the read of the bytes can answer. -/
theorem bufferReadIsBigEndian : Obligations.BufferReadIsBigEndian := by
  intro s rest a z hs ha halign hb
  have hw := decodeWindow_buffer s.config a ha
  rcases memRead_cases s a z.bytes with ⟨l, hl, hlen, hholds⟩ | ⟨x, ⟨hax, hxa⟩, he, hnone⟩
  · have hread := fun k hk => read_eq_byteOfValue (k := k) hlen hholds hk
    obtain ⟨hsize, -⟩ := hostData_ofBytes z l hlen
    refine ⟨fun _ => ⟨_, hsize, step_hostRead hs (hostRead_buffer_aligned hw hb halign hl), hread⟩, ?_⟩
    rintro ⟨k, hk, hnone⟩
    cases hnone.symm.trans (hread k hk)
  · obtain ⟨k, rfl⟩ := Nat.exists_eq_add_of_le hax
    have hk : k < z.bytes := Nat.lt_of_add_lt_add_left hxa
    refine ⟨fun hdef => ?_, fun _ => ⟨k, hk, hnone, step_hostRead_error hs (hostRead_buffer_undefined hw hb halign he)⟩⟩
    have hsome := hdef k hk
    rw [hnone] at hsome
    cases hsome

/-- Settles O48: neither access reaches a register or a byte. -/
theorem misalignedOrUnmappedIsBusErr : Obligations.MisalignedOrUnmappedIsBusErr := by
  intro s rest off
  constructor
  · intro h1 h2 hb
    have hw := decodeWindow_eq_buffer h1 h2
    exact ⟨fun z hs h => step_hostRead hs (hostRead_buffer_misaligned hw hb h),
      fun d hs h => step_hostWrite hs (hostWrite_buffer_misaligned (s := { s with script := rest }) hw hb h)⟩
  · intro hoff
    have hw := decodeWindow_eq_unmapped hoff
    exact ⟨fun z hs => step_hostRead hs (hostRead_unmapped z hw), fun d hs => step_hostWrite hs (hostWrite_unmapped d hw)⟩

/-- Settles O49: BUSY is looked at before the alignment (log 7). -/
theorem busyBufferAccesses : Obligations.BusyBufferAccesses := by
  intro s rest off h1 h2 hb
  have hw := decodeWindow_eq_buffer h1 h2
  exact ⟨fun z hs => step_hostRead hs (hostRead_buffer_busy hw z hb),
    fun d hs => step_hostWrite hs (hostWrite_buffer_busy (s := { s with script := rest }) hw d hb)⟩

/-- Settles O50: reads and writes are taken alike in every state with other contents in BUF, W and H. -/
theorem runningCommandIsHiddenFromHost : Obligations.RunningCommandIsHiddenFromHost := by
  intro s tx rest b w h hb hs
  have hs' : (s.withHidden b w h).script = .host tx :: rest := hs
  cases tx with
  | read off z =>
    obtain ⟨r, hr⟩ := hostRead_of_busy (s := { s with script := rest }) hb off z
    exact ⟨_, step_hostRead hs (hr s.buf s.sched s.hsub), step_hostRead hs' (hr b w h), rfl, rfl, rfl, rfl, rfl, hb⟩
  | write off d =>
    have hbusy : State.busy { s with script := rest } = true := hb
    obtain ⟨-, -, hsched, hhsub, -⟩ := hostWrite_frame { s with script := rest } off d
    obtain ⟨hbuf, hopr, hlatch⟩ := hostWrite_of_busy hbusy off d
    exact ⟨_, step_hostWrite hs rfl, step_hostWrite hs' (hostWrite_withHidden hbusy off d b w h), hbuf, hsched, hhsub, hopr,
      hlatch, hostWrite_busy _ off d hbusy⟩

/-- Settles O51: all a host read does is to hand over a response. -/
theorem hostReadsHaveNoSideEffect : Obligations.HostReadsHaveNoSideEffect := by
  intro s t off z rest hs h
  rw [step_of_cons s _ rest hs] at h
  rcases hostStep_next (.read off z) _ t h with ⟨_, _, r, -, rfl⟩ | ⟨_, _, hwrite, -⟩
  · exact ⟨r, rfl⟩
  · cases hwrite

end

section
/-!
PROOFS. The decoder and the encoder are inverse to each other, and the words refused are those of R92 (30_encoding.md R90 to R92);
the engine's turn as a step (30_encoding.md R96; 00_scope.md R11).
-/

namespace Sys2Proof

/-- Encoding and decoding gives the command back (30_encoding.md R91). -/
@[simp] theorem decode_encode (i : Instr) : decode (encode i) = .ok i := by
  cases i <;> rfl

/-- Every command's word is well-formed. -/
theorem wellFormedWord_encode (i : Instr) : wellFormedWord (encode i) = true :=
  match i with
  | .keyexp => Laws.WordForm.keyexp.2
  | .enc => Laws.WordForm.enc.2
  | .dec => Laws.WordForm.dec.2
  | .gcmEnc => Laws.WordForm.gcmEnc.2
  | .gcmDec => Laws.WordForm.gcmDec.2
  | .ghash => Laws.WordForm.ghash.2
  | .gfmul8 => Laws.WordForm.gfmul8.2
  | .gfmul128 => Laws.WordForm.gfmul128.2

/-- Every command's word has RSVD = 0 (30_encoding.md R91). -/
theorem rsvdClear_encode (i : Instr) : rsvdClear (encode i) = true :=
  (Bool.and_eq_true_iff.1 (wellFormedWord_encode i)).1

/-- A word with RSVD = 0 is its OP, extended with zeros (30_encoding.md R90). -/
theorem eq_setWidth_opOf {w : Word} (h : rsvdClear w = true) : w = (opOf w).setWidth 32 := by
  have hrsvd := congrArg BitVec.toNat (eq_of_beq h)
  simp only [rsvdOf, BitVec.extractLsb'_toNat, Nat.shiftRight_eq_div_pow] at hrsvd
  simp only [opOf]
  bv_omega

/-- A word with RSVD = 0 and the OP of a command is that command's word: it holds nothing else (30_encoding.md R90). -/
theorem eq_encode_of_opOf {w : Word} {i : Instr} (hrsvd : rsvdClear w = true) (hop : opOf w = opOf (encode i)) :
    w = encode i := by
  rw [eq_setWidth_opOf hrsvd, hop, ← eq_setWidth_opOf (rsvdClear_encode i)]

/-- Only a command's own word decodes to it (30_encoding.md R91, mask 0xFFFFFFFF). -/
theorem eq_encode_of_decode {w : Word} {i : Instr} (h : decode w = .ok i) : w = encode i := by
  unfold decode at h
  split_ifs at h with hrsvd hop hop hop hop hop hop hop hop <;> cases h
  all_goals exact eq_encode_of_opOf (Bool.of_not_eq_false hrsvd) hop

/-- An assigned operation code is some command's (30_encoding.md R91). -/
theorem exists_opOf_encode {w : Word} (h : opAssigned w = true) : ∃ i, opOf w = opOf (encode i) := by
  simp only [opAssigned, Bool.and_eq_true, decide_eq_true_eq] at h
  obtain h | h | h | h | h | h | h | h : opOf w = 1#8 ∨ opOf w = 2#8 ∨ opOf w = 3#8 ∨ opOf w = 4#8 ∨ opOf w = 5#8 ∨
      opOf w = 6#8 ∨ opOf w = 7#8 ∨ opOf w = 8#8 := by bv_omega
  · exact ⟨.keyexp, h⟩
  · exact ⟨.enc, h⟩
  · exact ⟨.dec, h⟩
  · exact ⟨.gcmEnc, h⟩
  · exact ⟨.gcmDec, h⟩
  · exact ⟨.ghash, h⟩
  · exact ⟨.gfmul8, h⟩
  · exact ⟨.gfmul128, h⟩

/-- The well-formed words are the commands' words (30_encoding.md R92: a word is one of the eight rows or illegal). -/
theorem wellFormedWord_iff_exists_encode (w : Word) : wellFormedWord w = true ↔ ∃ i, w = encode i := by
  constructor
  · intro h
    obtain ⟨hrsvd, hop⟩ := Bool.and_eq_true_iff.1 h
    obtain ⟨i, hi⟩ := exists_opOf_encode hop
    exact ⟨i, eq_encode_of_opOf hrsvd hi⟩
  · rintro ⟨i, rfl⟩
    exact wellFormedWord_encode i

/-- A word decodes to a command exactly when it is that command's word. -/
theorem decode_eq_ok_iff (w : Word) (i : Instr) : decode w = .ok i ↔ w = encode i :=
  ⟨eq_encode_of_decode, fun h => h ▸ decode_encode i⟩

/-- The decoder refuses exactly the words that are not well-formed. -/
theorem decode_error_iff (w : Word) : (∃ e, decode w = .error e) ↔ wellFormedWord w = false := by
  rw [← Bool.not_eq_true, wellFormedWord_iff_exists_encode]
  simp only [← decode_eq_ok_iff]
  cases decode w <;> simp

/-- The ill-formed words, by their fields (30_encoding.md R92). -/
theorem wellFormedWord_eq_false_iff (w : Word) :
    wellFormedWord w = false ↔
      w.extractLsb' 8 24 ≠ 0#24 ∨ w.extractLsb' 0 8 = 0x00#8 ∨ 9 ≤ (w.extractLsb' 0 8).toNat := by
  have hop : opAssigned w = false ↔ w.extractLsb' 0 8 = 0x00#8 ∨ 9 ≤ (w.extractLsb' 0 8).toNat := by
    simp only [opAssigned, opOf, BitVec.setWidth_eq_extractLsb' (show 8 ≤ 32 by decide), Bool.and_eq_false_iff,
      decide_eq_false_iff_not]
    bv_omega
  rw [wellFormedWord, Bool.and_eq_false_iff, hop, rsvdClear, rsvdOf, beq_eq_false_iff_ne]

end Sys2Proof

namespace Sys2Proof.Machine

/-- A scripted engine's turn is used up (00_scope.md R11). -/
theorem step_of_engine {s : State} {rest : List Event} (h : s.script = .engine :: rest) :
    step s = engineTurn { s with script := rest } :=
  step_of_cons s .engine rest h

/-- The engine's turn with BUSY = 1 is `exec` of the command in LATCH (30_encoding.md R96). -/
theorem engineTurn_of_decode {s : State} {i : Instr} (hb : s.busy = true) (hd : decode s.latch = .ok i) :
    engineTurn s = exec i s :=
  (engineTurn_of_busy hb).trans (engineStep_of_decode hd)

/-- The engine's turn with BUSY = 0 changes nothing (log 2). -/
theorem engineTurn_of_idle {s : State} (h : s.busy = false) : engineTurn s = .next s := by
  simp only [engineTurn, h, Bool.false_eq_true, if_false]

end Sys2Proof.Machine

open Sys2Proof Sys2Proof.Machine

/-- Settles O1: the refused words are the ill-formed ones. -/
theorem decodeInvertsEncode : Obligations.DecodeInvertsEncode := fun w =>
  ⟨decode_eq_ok_iff w, (decode_error_iff w).trans (wellFormedWord_eq_false_iff w)⟩

/-- Settles O2: the first eight words are the commands' own. -/
theorem opcodeMapWords : Obligations.OpcodeMapWords :=
  ⟨decode_encode .keyexp, decode_encode .enc, decode_encode .dec, decode_encode .gcmEnc, decode_encode .gcmDec,
    decode_encode .ghash, decode_encode .gfmul8, decode_encode .gfmul128, by decide⟩

/-- Settles O3: the step is the engine's turn, scripted or not (log 2). -/
theorem stepRunsLatchedCommand : Obligations.StepRunsLatchedCommand := by
  refine ⟨fun s i hbusy hlatch => ⟨fun hnil => ?_, fun rest hcons => ?_⟩,
    fun s hidle => ⟨fun hnil => ?_, fun rest hcons => ?_⟩⟩
  · exact (step_of_nil s hnil).trans (engineTurn_of_decode hbusy hlatch)
  · exact (step_of_engine hcons).trans (engineTurn_of_decode (s := { s with script := rest }) hbusy hlatch)
  · exact (step_of_nil s hnil).trans (engineTurn_of_idle hidle)
  · exact (step_of_engine hcons).trans (engineTurn_of_idle (s := { s with script := rest }) hidle)

end

section
/-!
PROOFS. The multiplier of GF(2⁸) is the polynomial product modulo 0x11B and obeys the laws of a field; SBOX is an affine map of its
inverse; GFMUL8 writes its product (40_field_and_roms.md R121 to R123, R125 to R127, R130). The field facts rest on one idea: each
operation is linear over ⊕, so two of them are equal when they are equal on the powers of x, of which a byte has eight.
-/

namespace Sys2Proof.Machine

/-! ### Maps that are linear over ⊕ -/

/-- The map takes ⊕ to ⊕ (40_field_and_roms.md R120). -/
def XorLinear {v w : Nat} (f : BitVec v → BitVec w) : Prop := ∀ a b, f (a ^^^ b) = f a ^^^ f b

namespace XorLinear

variable {u v w : Nat} {f g : BitVec v → BitVec w}

theorem self : XorLinear fun a : BitVec v => a := fun _ _ => rfl

theorem map_zero (hf : XorLinear f) : f 0#v = 0#w := by
  simpa using hf 0#v 0#v

theorem comp {h : BitVec u → BitVec v} (hf : XorLinear f) (hh : XorLinear h) : XorLinear fun a => f (h a) := fun a b =>
  (congrArg f (hh a b)).trans (hf _ _)

theorem xor (hf : XorLinear f) (hg : XorLinear g) : XorLinear fun a => f a ^^^ g a := fun a b => by
  simp only [hf a b, hg a b]
  ac_rfl

theorem iterate {h : BitVec v → BitVec v} (hh : XorLinear h) (k : Nat) : XorLinear h^[k] := by
  induction k with
  | zero => exact fun _ _ => rfl
  | succ k ih => exact ih.comp hh

theorem foldl {h : BitVec v → Nat → BitVec v} (hh : ∀ k, XorLinear (h · k)) (ks : List Nat) : XorLinear (ks.foldl h) := by
  induction ks with
  | nil => exact fun _ _ => rfl
  | cons k ks ih => exact ih.comp (hh k)

end XorLinear

theorem xorLinear_shiftLeft (v k : Nat) : XorLinear fun a : BitVec v => a <<< k := fun a b =>
  BitVec.shiftLeft_xor_distrib a b k

theorem xorLinear_setWidth (v w : Nat) : XorLinear fun a : BitVec v => a.setWidth w := fun _ _ => BitVec.setWidth_xor

/-- A constant added where one bit of the argument is 1. -/
theorem xorLinear_bit {v w : Nat} (i : Nat) (c : BitVec w) : XorLinear fun a : BitVec v => if a.getLsbD i then c else 0#w :=
    fun a b => by
  simp only [BitVec.getLsbD_xor]
  cases a.getLsbD i <;> cases b.getLsbD i <;> simp

/-! ### Sums over the bits of a number -/

/-- The sum, over the 1 bits k < n of `b`, of the terms `t k`. -/
def bitSum {v w : Nat} (b : BitVec v) (t : Nat → BitVec w) : Nat → BitVec w
  | 0 => 0#w
  | n + 1 => bitSum b t n ^^^ if b.getLsbD n then t n else 0#w

section BitSum

variable {u v w : Nat}

theorem xorLinear_bitSum (t : Nat → BitVec w) (n : Nat) : XorLinear fun b : BitVec v => bitSum b t n := by
  induction n with
  | zero => exact fun _ _ => by simp [bitSum]
  | succ n ih => exact ih.xor (xorLinear_bit n (t n))

theorem xorLinear_bitSum_terms (b : BitVec v) {t : BitVec u → Nat → BitVec w} (ht : ∀ k, XorLinear (t · k)) (n : Nat) :
    XorLinear fun a => bitSum b (t a) n := by
  induction n with
  | zero => exact fun _ _ => by simp [bitSum]
  | succ n ih =>
    refine ih.xor ?_
    cases b.getLsbD n
    · exact fun _ _ => by simp
    · exact ht n

theorem XorLinear.map_bitSum {f : BitVec u → BitVec w} (hf : XorLinear f) (b : BitVec v) (t : Nat → BitVec u) (n : Nat) :
    f (bitSum b t n) = bitSum b (fun k => f (t k)) n := by
  induction n with
  | zero => exact hf.map_zero
  | succ n ih => simp only [bitSum, hf _ _, ih, apply_ite f, hf.map_zero]

theorem bitSum_congr (b : BitVec v) {t t' : Nat → BitVec w} {n : Nat} (h : ∀ k < n, t k = t' k) :
    bitSum b t n = bitSum b t' n := by
  induction n with
  | zero => rfl
  | succ n ih => rw [bitSum, bitSum, ih fun k hk => h k (by omega), h n (by omega)]

/-- Bit i of the first n powers of x that occur in `b`. -/
theorem getLsbD_bitSum_twoPow (b : BitVec v) {n i : Nat} (hi : i < v) :
    (bitSum b (BitVec.twoPow v) n).getLsbD i = (decide (i < n) && b.getLsbD i) := by
  induction n with
  | zero => simp [bitSum]
  | succ n ih =>
    have hbit : (if b.getLsbD n then BitVec.twoPow v n else 0#v).getLsbD i = (decide (i = n) && b.getLsbD i) := by
      by_cases h : i = n
      · subst h
        cases hb : b.getLsbD i <;> simp [hi]
      · cases b.getLsbD n <;> simp [BitVec.getLsbD_twoPow, h, Ne.symm h]
    rw [bitSum, BitVec.getLsbD_xor, ih, hbit]
    rcases Nat.lt_trichotomy i n with h | rfl | h
    · simp [h, h.ne, Nat.lt_succ_of_lt h]
    · simp
    · simp [h.ne', Nat.not_lt.2 h.le, Nat.not_lt.2 (Nat.succ_le_of_lt h)]

/-- A number is the sum of the powers of x that occur in it (40_field_and_roms.md R120). -/
theorem bitSum_twoPow (b : BitVec v) : bitSum b (BitVec.twoPow v) v = b :=
  BitVec.eq_of_getLsbD_eq fun i hi => by rw [getLsbD_bitSum_twoPow b hi, decide_eq_true hi, Bool.true_and]

/-- Linear maps that agree on the powers of x agree everywhere. -/
theorem XorLinear.ext {f g : BitVec v → BitVec w} (hf : XorLinear f) (hg : XorLinear g)
    (h : ∀ k < v, f (BitVec.twoPow v k) = g (BitVec.twoPow v k)) (b : BitVec v) : f b = g b := by
  rw [← bitSum_twoPow b, hf.map_bitSum, hg.map_bitSum]
  exact bitSum_congr b h

/-- Maps linear in each of two arguments that agree on the powers of x agree everywhere. -/
theorem XorLinear.ext₂ {f g : BitVec u → BitVec v → BitVec w} (hf : ∀ a, XorLinear (f a)) (hf' : ∀ b, XorLinear (f · b))
    (hg : ∀ a, XorLinear (g a)) (hg' : ∀ b, XorLinear (g · b))
    (h : ∀ j < u, ∀ k < v, f (BitVec.twoPow u j) (BitVec.twoPow v k) = g (BitVec.twoPow u j) (BitVec.twoPow v k))
    (a : BitVec u) (b : BitVec v) : f a b = g a b :=
  (hf a).ext (hg a) (fun k hk => (hf' _).ext (hg' _) (fun j hj => h j hj k hk) a) b

end BitSum

/-! ### The multiplier (40_field_and_roms.md R121, R122) -/

theorem xorLinear_xtime : XorLinear xtime := (xorLinear_shiftLeft 8 1).xor (xorLinear_bit 7 0x1B#8)

/-- After n iterations: the sum of the multiples a • x^k at the 1 bits k < n of b, and the multiple a • x^n. -/
theorem foldl_gmulStep (a b : Byte) (n : Nat) :
    (List.range n).foldl (gmulStep b) (0x00#8, a) = (bitSum b (fun k => xtime^[k] a) n, xtime^[n] a) := by
  induction n with
  | zero => rfl
  | succ n ih =>
    rw [List.range_succ, List.foldl_append, ih, List.foldl_cons, List.foldl_nil, gmulStep, Function.iterate_succ_apply', bitSum]
    cases b.getLsbD n <;> simp

theorem gmul_eq_bitSum (a b : Byte) : gmul a b = bitSum b (fun k => xtime^[k] a) 8 := by
  rw [gmul, foldl_gmulStep]

theorem xorLinear_gmul_right (a : Byte) : XorLinear (gmul a) := fun b c => by
  simp only [gmul_eq_bitSum]
  exact xorLinear_bitSum _ 8 b c

theorem xorLinear_gmul_left (b : Byte) : XorLinear (gmul · b) := fun a c => by
  simp only [gmul_eq_bitSum]
  exact xorLinear_bitSum_terms b xorLinear_xtime.iterate 8 a c

theorem polyProduct_eq_bitSum (a b : Byte) : polyProduct a b = bitSum b (fun k => a.setWidth 16 <<< k) 8 := rfl

/-- Each line of the long division subtracts a multiple of the divisor where the top bit is 1. -/
theorem xorLinear_polyMod : XorLinear polyMod := by
  refine (xorLinear_setWidth 16 8).comp (XorLinear.foldl (fun k p q => ?_) (List.range 8))
  have hstep : ∀ p : BitVec 16, (if p.getLsbD (15 - k) then p ^^^ (0x11B#16 <<< (7 - k)) else p) =
      p ^^^ if p.getLsbD (15 - k) then 0x11B#16 <<< (7 - k) else 0#16 := fun p => by
    split <;> simp
  simp only [hstep]
  exact XorLinear.self.xor (xorLinear_bit (15 - k) (0x11B#16 <<< (7 - k))) p q

/-- k doublings with reduction are one reduction of a(x)·x^k. -/
theorem polyMod_shiftLeft {k : Nat} (hk : k < 8) (a : Byte) : polyMod (a.setWidth 16 <<< k) = xtime^[k] a := by
  refine XorLinear.ext (f := fun a => polyMod (a.setWidth 16 <<< k))
    (xorLinear_polyMod.comp ((xorLinear_shiftLeft 16 k).comp (xorLinear_setWidth 8 16))) (xorLinear_xtime.iterate k) ?_ a
  revert k
  decide +kernel

theorem gmul_comm (a b : Byte) : gmul a b = gmul b a :=
  XorLinear.ext₂ xorLinear_gmul_right xorLinear_gmul_left xorLinear_gmul_left xorLinear_gmul_right (by decide +kernel) a b

theorem gmul_xtime (a b : Byte) : gmul a (xtime b) = xtime (gmul a b) :=
  XorLinear.ext₂ (f := fun a b => gmul a (xtime b)) (g := fun a b => xtime (gmul a b))
    (fun a => (xorLinear_gmul_right a).comp xorLinear_xtime) (fun b => xorLinear_gmul_left (xtime b))
    (fun a => xorLinear_xtime.comp (xorLinear_gmul_right a)) (fun b => xorLinear_xtime.comp (xorLinear_gmul_left b))
    (by decide +kernel) a b

theorem gmul_iterate_xtime (a b : Byte) (k : Nat) : gmul a (xtime^[k] b) = xtime^[k] (gmul a b) :=
  Function.Semiconj.iterate_right (gmul_xtime a) k b

theorem gmul_assoc (a b c : Byte) : gmul (gmul a b) c = gmul a (gmul b c) := by
  rw [gmul_eq_bitSum b c, (xorLinear_gmul_right a).map_bitSum, gmul_eq_bitSum]
  simp only [gmul_iterate_xtime]

@[simp] theorem gmul_zero_left (a : Byte) : gmul 0x00#8 a = 0x00#8 := (xorLinear_gmul_left a).map_zero

@[simp] theorem gmul_one_left (a : Byte) : gmul 0x01#8 a = a :=
  (xorLinear_gmul_right 0x01#8).ext (g := fun a => a) XorLinear.self (by decide +kernel) a

@[simp] theorem gmul_one_right (a : Byte) : gmul a 0x01#8 = a := (gmul_comm a 0x01#8).trans (gmul_one_left a)

/-- A byte has at most one inverse. -/
theorem eq_of_gmul_eq_one {a b c : Byte} (hb : gmul a b = 0x01#8) (hc : gmul a c = 0x01#8) : b = c :=
  calc b = gmul b (gmul a c) := by rw [hc, gmul_one_right]
    _ = gmul (gmul a b) c := by rw [gmul_comm a b, gmul_assoc]
    _ = c := by rw [hb, gmul_one_left]

/-! ### The ROMs (40_field_and_roms.md R125 to R127) -/

/-- The inverse of the affine map of R125. -/
def sboxAffineInverse (y : Byte) : Byte := y.rotateLeft 1 ^^^ y.rotateLeft 3 ^^^ y.rotateLeft 6 ^^^ 0x05#8

theorem sboxAffine_sboxAffineInverse (y : Byte) : sboxAffine (sboxAffineInverse y) = y := by
  revert y
  decide +kernel

/-- Each nonzero byte's entry in SBOX is that of its inverse: the one walk through the table. -/
theorem gmul_sboxAffineInverse_sbox (x : Byte) : x ≠ 0x00#8 → gmul x (sboxAffineInverse (sbox x)) = 0x01#8 := by
  revert x
  decide +kernel

theorem invSbox_sbox (x : Byte) : invSbox (sbox x) = x := by
  revert x
  decide +kernel

theorem sbox_invSbox (y : Byte) : sbox (invSbox y) = y := by
  revert y
  decide +kernel

theorem sbox_ne_self_and_ne_complement (x : Byte) : sbox x ≠ x ∧ sbox x ≠ x ^^^ 0xFF#8 := by
  revert x
  decide +kernel

/-! ### A command that writes one string -/

/-- An admitted command whose work is one string written with code 0 completes, and changes nothing else (60_exceptions.md R269). -/
theorem exec_writes_of_admits {i : Instr} {s : State} {a : Nat} {l : Bytes} (hadm : s.admits i)
    (hbody : bodyOf i s = .ok (s.memWrite a l, .ok)) :
    ∃ t, exec i s = .next t ∧ t.holds a l ∧ s.sameOutside t [(a, l.length)] ∧ t = { s.ended .ok with buf := t.buf } := by
  refine ⟨_, exec_of_body i s _ _ ((checkOperands_eq_ok_iff_admits i s).2 hadm) hbody,
    holds_of_buf_eq_writeBytes _ s.buf a l rfl, fun x hx => memory_read_writeBytes_outside _ _ _ _ ?_, rfl⟩
  have hout : ¬ inRegion (a, l.length) x := hx _ (List.mem_singleton_self _)
  simp only [inRegion] at hout
  omega

end Sys2Proof.Machine

open Sys2Proof Sys2Proof.Machine

/-- Settles O14: the long division is linear, so it may be done term by term, and of one term it is repeated doubling. -/
theorem gmulIsPolynomialProduct : Obligations.GmulIsPolynomialProduct := fun a b => by
  rw [gmul_eq_bitSum, polyProduct_eq_bitSum, xorLinear_polyMod.map_bitSum]
  exact bitSum_congr b fun k hk => (polyMod_shiftLeft hk a).symm

/-- Settles O15: the inverse of a byte is read out of SBOX. -/
theorem gmulFieldLaws : Obligations.GmulFieldLaws :=
  ⟨gmul_comm, gmul_assoc, xorLinear_gmul_right, gmul_zero_left, gmul_one_left, fun a ha =>
    have hinv := gmul_sboxAffineInverse_sbox a ha
    ⟨_, hinv, fun _ hb => eq_of_gmul_eq_one hb hinv⟩⟩

/-- Settles O18: the command's work is the one byte written. -/
theorem gfmul8WritesProduct : Obligations.Gfmul8WritesProduct := fun s a b hadm hin =>
  exec_writes_of_admits hadm (bodyGfmul8_of_read s [a, b] (memRead_of_holds s _ 2 _ hin rfl))

/-- Settles O16, by a walk through each table. -/
theorem sboxTablesAreInverse : Obligations.SboxTablesAreInverse := fun x =>
  ⟨invSbox_sbox x, sbox_invSbox x, sbox_ne_self_and_ne_complement x⟩

/-- Settles O17: a byte has one inverse, and the affine map takes it to the byte's entry. -/
theorem sboxIsAffineOfInverse : Obligations.SboxIsAffineOfInverse := by
  refine ⟨by decide +kernel, fun x y hxy => ?_⟩
  have hx : x ≠ 0x00#8 := by
    rintro rfl
    rw [gmul_zero_left] at hxy
    exact absurd hxy (by decide)
  rw [eq_of_gmul_eq_one hxy (gmul_sboxAffineInverse_sbox x hx), sboxAffine_sboxAffineInverse]

end

section
/-!
PROOFS. The word transforms and the recurrence that Expand's words obey, and KEYEXP's instance (41_key_expansion.md R150 to R156).
The loop keeps its words newest first; the proof reads them by their index in W instead, and an index names the same word in every
later list, since a pass only adds a word in front.
-/

namespace Sys2Proof.Machine

/-! ### Words of four bytes (41_key_expansion.md R150 to R152) -/

/-- The bytes of a word in a row, the first one most significant. -/
theorem be32_eq_append (a b c d : Byte) : be32 a b c d = a ++ b ++ c ++ d := by
  refine BitVec.eq_of_getLsbD_eq fun i _ => ?_
  have hc : i - 8 < 8 ↔ i < 16 := by omega
  have hb : i - (8 + 8) < 8 ↔ i < 24 := by omega
  simp only [be32_getLsbD, BitVec.getLsbD_append, Nat.sub_sub, hc, hb]

theorem toNat_append_byte {n : Nat} (x : BitVec n) (b : Byte) : (x ++ b).toNat = 256 * x.toNat + b.toNat := by
  rw [BitVec.toNat_append, ← Nat.shiftLeft_add_eq_or_of_lt b.isLt, Nat.shiftLeft_eq, Nat.mul_comm]

theorem be32_toNat (a b c d : Byte) : (be32 a b c d).toNat = bigEndian [a, b, c, d] := by
  simp only [be32_eq_append, toNat_append_byte, bigEndian, List.foldl_cons, List.foldl_nil, Nat.mul_zero, Nat.zero_add]

theorem rotWord_be32 (a b c d : Byte) : rotWord (be32 a b c d) = be32 b c d a := by
  obtain ⟨ha, hb, hc, hd⟩ := wordByte_be32 a b c d
  rw [rotWord, ha, hb, hc, hd]

theorem subWord_be32 (a b c d : Byte) : subWord (be32 a b c d) = be32 (sbox a) (sbox b) (sbox c) (sbox d) := by
  obtain ⟨ha, hb, hc, hd⟩ := wordByte_be32 a b c d
  rw [subWord, ha, hb, hc, hd]

/-! ### One pass of the loop (41_key_expansion.md R153) -/

/-- The ROM holds the powers of {02} from the 0th on (40_field_and_roms.md R128). -/
theorem rconFirstBytes_getElem? : ∀ n < 31, rconFirstBytes[n]? = some (twoPower n) := by
  decide +kernel

theorem rcon_succ {n : Nat} (hn : n < 31) : rcon (n + 1) = some (be32 (twoPower n) 0x00#8 0x00#8 0x00#8) := by
  simp only [rcon, rconFirstBytes_getElem? n hn]

/-- `temp` at the end of pass i, from W[i−1], with the Rcon word as a power of {02}. -/
def expandAddend (i : Nat) (prev : Word) : Word :=
  if i % 8 = 0 then subWord (rotWord prev) ^^^ be32 (twoPower (i / 8 - 1)) 0x00#8 0x00#8 0x00#8
  else if i % 8 = 4 then subWord prev
  else prev

theorem expandTemp_eq {i : Nat} (h8 : 8 ≤ i) (h : i < 256) (prev : Word) : expandTemp i prev = some (expandAddend i prev) := by
  obtain ⟨n, hn⟩ : ∃ n, i / 8 = n + 1 := Nat.exists_eq_succ_of_ne_zero (by omega)
  have hn31 : n < 31 := by omega
  simp only [expandTemp, expandAddend, hn, rcon_succ hn31, Nat.add_sub_cancel]
  split_ifs <;> rfl

/-- W[i], where the words so far are listed newest first. -/
def scheduleWord (ws : List Word) (i : Nat) : Word := ws.reverse.getD i 0#32

/-- Adding words in front leaves the index of each earlier word alone. -/
theorem scheduleWord_of_suffix {ws ws' : List Word} (h : ws <:+ ws') {i : Nat} (hi : i < ws.length) :
    scheduleWord ws' i = scheduleWord ws i := by
  obtain ⟨l, rfl⟩ := h
  rw [scheduleWord, List.reverse_append, List.getD_append _ _ _ _ (by simpa using hi), scheduleWord]

/-- The newest word has the highest index. -/
theorem scheduleWord_cons_length (x : Word) (ws : List Word) : scheduleWord (x :: ws) ws.length = x := by
  simp [scheduleWord]

/-- The word k places behind the newest one. -/
theorem getD_eq_scheduleWord {ws : List Word} {k : Nat} (hk : k < ws.length) :
    ws.getD k 0#32 = scheduleWord ws (ws.length - 1 - k) := by
  rw [scheduleWord, List.getD_reverse _ (by omega)]
  congr 1
  omega

/-- The word that the recurrence puts after the words so far. -/
def nextScheduleWord (ws : List Word) : Word :=
  scheduleWord ws (ws.length - 8) ^^^ expandAddend ws.length (scheduleWord ws (ws.length - 1))

theorem expandStep_eq {ws : List Word} (h8 : 8 ≤ ws.length) (h : ws.length < 256) :
    expandStep ws ws.length = some (nextScheduleWord ws :: ws) := by
  rw [expandStep, expandTemp_eq h8 h, getD_eq_scheduleWord (by omega), getD_eq_scheduleWord (by omega), Nat.sub_zero, Nat.sub_sub,
    nextScheduleWord]

/-! ### The loop (41_key_expansion.md R153, R154) -/

/-- W[i] obeys the recurrence of 41_key_expansion.md R153. -/
def RecurrenceAt (ws : List Word) (i : Nat) : Prop :=
  scheduleWord ws i = scheduleWord ws (i - 8) ^^^ expandAddend i (scheduleWord ws (i - 1))

/-- The word just added obeys the recurrence, in every later list too. -/
theorem recurrenceAt_length {ws ws' : List Word} (h8 : 8 ≤ ws.length) (h : nextScheduleWord ws :: ws <:+ ws') :
    RecurrenceAt ws' ws.length := by
  have hws : ws <:+ ws' := (List.suffix_cons _ ws).trans h
  rw [RecurrenceAt, scheduleWord_of_suffix h (Nat.lt_succ_self _), scheduleWord_cons_length, nextScheduleWord,
    scheduleWord_of_suffix hws (by omega), scheduleWord_of_suffix hws (by omega)]

/-- From eight words on, m passes keep the words there are and add m that obey the recurrence. -/
theorem expandLoop_recurrence (m : Nat) (ws : List Word) (h8 : 8 ≤ ws.length) (h : ws.length + m ≤ 256) :
    ∃ ws', expandLoop ws (List.range' ws.length m) = some ws' ∧ ws <:+ ws' ∧
      ∀ i, ws.length ≤ i → i < ws.length + m → RecurrenceAt ws' i := by
  induction m generalizing ws with
  | zero => exact ⟨ws, rfl, List.suffix_rfl, fun i _ _ => by omega⟩
  | succ m ih =>
    obtain ⟨ws', hloop, hsuffix, hrec⟩ := ih (nextScheduleWord ws :: ws) (by simp; omega) (by simp; omega)
    refine ⟨ws', ?_, (List.suffix_cons _ ws).trans hsuffix, fun i hle hlt => ?_⟩
    · rw [List.range'_succ, expandLoop, expandStep_eq h8 (by omega)]
      exact hloop
    · rcases hle.eq_or_lt with rfl | hgt
      · exact recurrenceAt_length h8 hsuffix
      · exact hrec i hgt (by simp; omega)

theorem scheduleWord_keyWords (k : Bytes) {i : Nat} (hi : i < 8) :
    scheduleWord ((List.range 8).map (keyWord k)).reverse i = keyWord k i := by
  simp [scheduleWord, hi]

/-- Expand answers the key's eight words and then the words of the recurrence (41_key_expansion.md R150, R153). -/
theorem expand_recurrence (k : Bytes) :
    ∃ w : Schedule, expand k = some w ∧ (∀ i (h : i < 8), w[i] = keyWord k i) ∧
      ∀ i (h : i < 60), 8 ≤ i → w[i] = w[i - 8] ^^^ expandAddend i w[i - 1] := by
  obtain ⟨ws, hloop, hsuffix, hrec⟩ :=
    expandLoop_recurrence 52 ((List.range 8).map (keyWord k)).reverse (by simp) (by simp)
  simp only [List.length_reverse, List.length_map, List.length_range] at hloop hrec
  have hw : ∀ i (h : i < 60), (Vector.ofFn fun i : Fin 60 => ws.reverse.getD i.val 0#32)[i] = scheduleWord ws i := fun i h =>
    Vector.getElem_ofFn h
  refine ⟨_, by rw [expand, hloop], fun i h => ?_, fun i h h8 => ?_⟩
  · rw [hw, scheduleWord_of_suffix hsuffix (by simpa using h), scheduleWord_keyWords k h]
  · rw [hw, hw, hw]
    exact hrec i h8 h

/-! ### KEYEXP (41_key_expansion.md R156) -/

theorem block_zero_eq_replicate : Block.zero = Vector.replicate 16 0x00#8 := by
  ext i hi
  simp

end Sys2Proof.Machine

open Sys2Proof Sys2Proof.Machine

/-- Settles O19, by induction on the passes of the loop. -/
theorem expandObeysRecurrence : Obligations.ExpandObeysRecurrence :=
  ⟨fun a b c d => ⟨be32_toNat a b c d, rotWord_be32 a b c d, subWord_be32 a b c d⟩, fun k _ => expand_recurrence k⟩

/-- Settles O20: the command's work is the one instance installed. -/
theorem keyexpInstallsInstance : Obligations.KeyexpInstallsInstance := fun s k hk hadm hin => by
  obtain ⟨w, hw⟩ := expand_isSome k
  have hbody := bodyKeyexp_of_read s k w (memRead_of_holds s _ 32 k hin hk) hw
  refine ⟨w, hw, ?_⟩
  rw [exec_of_body .keyexp s _ _ ((checkOperands_eq_ok_iff_admits _ s).2 hadm) hbody, block_zero_eq_replicate]
  rfl

end

section
/-!
PROOFS. The sub-transforms entry by entry and their inverses, Cipher and InvCipher round by round and each undoing the other
(42_cipher.md R170 to R181), and the commands ENC and DEC (R182, R183). Between its first and its last round key Cipher is a chain of
rounds that begin with SubBytes and ShiftRows, and InvCipher one of rounds that begin with their inverses: so a round of InvCipher
undoes a round of Cipher together with the SubBytes and ShiftRows that follow it.
-/

namespace Sys2Proof.Machine

/-! ### Each sub-transform and its inverse (42_cipher.md R170 to R178) -/

theorem load_at (b : Block) (r c : Fin 4) : (load b).at r c = b[r.val + 4 * c.val] := matrix4_at_ofFn _ r c

theorem shiftRows_at (s : Matrix4) (r c : Fin 4) : (shiftRows s).at r c = s.at r (c + r) := matrix4_at_ofFn _ r c

theorem invShiftRows_at (s : Matrix4) (r c : Fin 4) : (invShiftRows s).at r c = s.at r (c - r) := matrix4_at_ofFn _ r c

theorem store_load (b : Block) : store (load b) = b := by
  ext i hi
  simp only [store, Vector.getElem_ofFn, load_at, Nat.mod_add_div]

theorem load_store (s : Matrix4) : load (store s) = s := matrix4_ext _ _ fun r c => by
  have hrow : (r.val + 4 * c.val) % 4 = r.val := by omega
  have hcolumn : (r.val + 4 * c.val) / 4 = c.val := by omega
  simp only [load_at, store, Vector.getElem_ofFn, hrow, hcolumn]

theorem invSubBytes_subBytes (s : Matrix4) : invSubBytes (subBytes s) = s := matrix4_ext _ _ fun r c => by
  simp only [invSubBytes, subBytes, matrix4_at_ofFn, invSbox_sbox]

theorem subBytes_invSubBytes (s : Matrix4) : subBytes (invSubBytes s) = s := matrix4_ext _ _ fun r c => by
  simp only [invSubBytes, subBytes, matrix4_at_ofFn, sbox_invSbox]

theorem invShiftRows_shiftRows (s : Matrix4) : invShiftRows (shiftRows s) = s := matrix4_ext _ _ fun r c => by
  rw [invShiftRows_at, shiftRows_at, sub_add_cancel]

theorem shiftRows_invShiftRows (s : Matrix4) : shiftRows (invShiftRows s) = s := matrix4_ext _ _ fun r c => by
  rw [shiftRows_at, invShiftRows_at, add_sub_cancel_right]

/-- A byte of a word, by shifting it to the bottom. -/
theorem wordByte_eq_setWidth (w : Word) (k : Fin 4) : wordByte w k = (w >>> (8 * (3 - k.val))).setWidth 8 := rfl

theorem addRoundKey_addRoundKey (w : Schedule) (n : Fin 15) (s : Matrix4) : addRoundKey w n (addRoundKey w n s) = s :=
  matrix4_ext _ _ fun r c => by
    simp only [addRoundKey, matrix4_at_ofFn, BitVec.xor_assoc, BitVec.xor_self, BitVec.xor_zero]

/-! ### The two column mixings (42_cipher.md R176, R177) -/

/-- The columns multiplied by the matrix whose row r is k₀ k₁ k₂ k₃ rotated r places to the right. -/
def mixWith (k₀ k₁ k₂ k₃ : Byte) (s : Matrix4) : Matrix4 := .ofFn fun r c =>
  gmul k₀ (s.at r c) ^^^ gmul k₁ (s.at (r + 1) c) ^^^ gmul k₂ (s.at (r + 2) c) ^^^ gmul k₃ (s.at (r + 3) c)

theorem mixWith_at (k₀ k₁ k₂ k₃ : Byte) (s : Matrix4) (r c : Fin 4) : (mixWith k₀ k₁ k₂ k₃ s).at r c =
    gmul k₀ (s.at r c) ^^^ gmul k₁ (s.at (r + 1) c) ^^^ gmul k₂ (s.at (r + 2) c) ^^^ gmul k₃ (s.at (r + 3) c) :=
  matrix4_at_ofFn _ r c

theorem mixColumns_eq_mixWith (s : Matrix4) : mixColumns s = mixWith 0x02#8 0x03#8 0x01#8 0x01#8 s := by
  simp only [mixColumns, mixWith, gmul_one_left]

theorem invMixColumns_eq_mixWith (s : Matrix4) : invMixColumns s = mixWith 0x0e#8 0x0b#8 0x0d#8 0x09#8 s := rfl

/-- The row 01 00 00 00 makes the unit matrix. -/
theorem mixWith_one (s : Matrix4) : mixWith 0x01#8 0x00#8 0x00#8 0x00#8 s = s := matrix4_ext _ _ fun r c => by
  simp only [mixWith_at, gmul_one_left, gmul_zero_left, BitVec.xor_zero]

/-- Two such matrices multiply to a third of the kind: their rows multiply as polynomials modulo x⁴ + 1. -/
theorem mixWith_mixWith (a₀ a₁ a₂ a₃ b₀ b₁ b₂ b₃ : Byte) (s : Matrix4) :
    mixWith a₀ a₁ a₂ a₃ (mixWith b₀ b₁ b₂ b₃ s) =
      mixWith (gmul a₀ b₀ ^^^ gmul a₁ b₃ ^^^ gmul a₂ b₂ ^^^ gmul a₃ b₁) (gmul a₀ b₁ ^^^ gmul a₁ b₀ ^^^ gmul a₂ b₃ ^^^ gmul a₃ b₂)
        (gmul a₀ b₂ ^^^ gmul a₁ b₁ ^^^ gmul a₂ b₀ ^^^ gmul a₃ b₃) (gmul a₀ b₃ ^^^ gmul a₁ b₂ ^^^ gmul a₂ b₁ ^^^ gmul a₃ b₀) s := by
  have hright (a b c : Byte) : gmul a (b ^^^ c) = gmul a b ^^^ gmul a c := xorLinear_gmul_right a b c
  have hleft (a b c : Byte) : gmul (a ^^^ b) c = gmul a c ^^^ gmul b c := xorLinear_gmul_left c a b
  refine matrix4_ext _ _ fun r c => ?_
  simp only [mixWith_at, hright, hleft, gmul_assoc, add_assoc, Fin.reduceAdd, add_zero]
  ac_rfl

/-- The rows 0e 0b 0d 09 and 02 03 01 01 multiply to 01 00 00 00. -/
theorem invMixColumns_mixColumns (s : Matrix4) : invMixColumns (mixColumns s) = s := by
  rw [mixColumns_eq_mixWith, invMixColumns_eq_mixWith, mixWith_mixWith]
  exact mixWith_one s

theorem mixColumns_invMixColumns (s : Matrix4) : mixColumns (invMixColumns s) = s := by
  rw [mixColumns_eq_mixWith, invMixColumns_eq_mixWith, mixWith_mixWith]
  exact mixWith_one s

/-! ### Cipher and InvCipher round by round (42_cipher.md R179, R180) -/

/-- Rounds 1 to n end with round n. -/
theorem middleRounds_take : ∀ n : Fin 15, 1 ≤ n.val → n.val ≤ 13 →
    middleRounds.take n.val = middleRounds.take (n.val - 1) ++ [n] := by decide

/-- Rounds n to 13 begin with round n. -/
theorem middleRounds_drop : ∀ n : Fin 15, 1 ≤ n.val → n.val ≤ 13 →
    middleRounds.drop (n.val - 1) = n :: middleRounds.drop n.val := by decide

/-- Cipher's State after round n. -/
def cipherState (w : Schedule) (b : Block) (n : Nat) : Matrix4 :=
  (middleRounds.take n).foldl (cipherRound w) (addRoundKey w 0 (load b))

/-- InvCipher's State after its round n, where rounds count down; its start is round 14. -/
def invCipherState (w : Schedule) (b : Block) (n : Nat) : Matrix4 :=
  (middleRounds.drop (n - 1)).reverse.foldl (invCipherRound w) (addRoundKey w 14 (load b))

theorem cipherState_round (w : Schedule) (b : Block) (n : Fin 15) (h1 : 1 ≤ n.val) (h13 : n.val ≤ 13) :
    cipherState w b n.val = cipherRound w (cipherState w b (n.val - 1)) n := by
  rw [cipherState, middleRounds_take n h1 h13, List.foldl_append]
  rfl

theorem invCipherState_round (w : Schedule) (b : Block) (n : Fin 15) (h1 : 1 ≤ n.val) (h13 : n.val ≤ 13) :
    invCipherState w b n.val = invCipherRound w (invCipherState w b (n.val + 1)) n := by
  rw [invCipherState, middleRounds_drop n h1 h13, List.reverse_cons, List.foldl_append]
  rfl

theorem cipher_eq_store (w : Schedule) (b : Block) :
    cipher w b = store (addRoundKey w 14 (shiftRows (subBytes (cipherState w b 13)))) := by
  rw [cipher]
  rfl

theorem invCipher_eq_store (w : Schedule) (b : Block) :
    invCipher w b = store (addRoundKey w 0 (invSubBytes (invShiftRows (invCipherState w b 1)))) := by
  rw [invCipher]
  rfl

/-! ### The round trip (42_cipher.md R181) -/

/-- Where each step of `g` undoes the step of `f` with the same index through a conversion `h`, the steps of `g` in reverse order
undo all those of `f`. -/
theorem foldl_reverse_foldl {α β γ : Type} {f : α → γ → α} {g : β → γ → β} {h : α → β} (hgf : ∀ s r, g (h (f s r)) r = h s)
    (l : List γ) (s : α) : l.reverse.foldl g (h (l.foldl f s)) = h s := by
  induction l generalizing s with
  | nil => rfl
  | cons r l ih => simpa only [List.reverse_cons, List.foldl_append, List.foldl_cons, List.foldl_nil, ih] using hgf s r

/-- A round of InvCipher undoes the round of Cipher before whose SubBytes and ShiftRows it stands. -/
theorem invCipherRound_cipherRound (w : Schedule) (s : Matrix4) (n : Fin 15) :
    invCipherRound w (shiftRows (subBytes (cipherRound w s n))) n = shiftRows (subBytes s) := by
  rw [invCipherRound, invShiftRows_shiftRows, invSubBytes_subBytes, cipherRound, addRoundKey_addRoundKey, invMixColumns_mixColumns]

theorem cipherRound_invCipherRound (w : Schedule) (s : Matrix4) (n : Fin 15) :
    cipherRound w (invSubBytes (invShiftRows (invCipherRound w s n))) n = invSubBytes (invShiftRows s) := by
  rw [cipherRound, subBytes_invSubBytes, shiftRows_invShiftRows, invCipherRound, mixColumns_invMixColumns, addRoundKey_addRoundKey]

theorem invCipher_cipher (w : Schedule) (p : Block) : invCipher w (cipher w p) = p := by
  rw [invCipher, cipher]
  simp only [load_store, addRoundKey_addRoundKey]
  rw [foldl_reverse_foldl (h := fun s => shiftRows (subBytes s)) (invCipherRound_cipherRound w), invShiftRows_shiftRows,
    invSubBytes_subBytes, addRoundKey_addRoundKey, store_load]

theorem cipher_invCipher (w : Schedule) (p : Block) : cipher w (invCipher w p) = p := by
  have hrounds := foldl_reverse_foldl (h := fun s => invSubBytes (invShiftRows s)) (cipherRound_invCipherRound w)
    middleRounds.reverse (addRoundKey w 14 (load p))
  rw [List.reverse_reverse] at hrounds
  rw [cipher, invCipher]
  simp only [load_store, addRoundKey_addRoundKey]
  rw [hrounds, subBytes_invSubBytes, shiftRows_invShiftRows, addRoundKey_addRoundKey, store_load]

/-! ### ENC and DEC (42_cipher.md R182, R183) -/

/-- An admitted command whose work is one block written with code 0 completes, and changes nothing else (60_exceptions.md R269). -/
theorem exec_writes_block_of_admits {i : Instr} {s : State} {a : Nat} {b : Block} (hadm : s.admits i)
    (hbody : bodyOf i s = .ok (s.memWrite a b.toList, .ok)) :
    ∃ t, exec i s = .next t ∧ t.holds a b.toList ∧ s.sameOutside t [(a, 16)] ∧ t = { s.ended .ok with buf := t.buf } := by
  simpa only [Vector.length_toList] using exec_writes_of_admits hadm hbody

/-- What a state admits does not depend on its buffer or on how its last command ended. -/
theorem admits_ended_iff (i : Instr) (s : State) (c : ResultCode) (m : Memory) :
    State.admits { s.ended c with buf := m } i ↔ s.admits i := Iff.rfl

/-- ENC and DEC have the same row in the operand table (30_encoding.md R94). -/
theorem admits_dec_iff_admits_enc (s : State) : s.admits .dec ↔ s.admits .enc := by
  simp [State.admits, tableNeedsKey, tableLengthOk, tableInputs, tableOutputs, tableNoClash]

/-- A command that ends with code 0 was admitted and its body has answered. -/
theorem admits_of_exec_ok {i : Instr} {s t : State} (hx : exec i s = .next t) (hok : t.errcode = .ok) :
    s.admits i ∧ ∃ u, bodyOf i s = .ok u := by
  rcases exec_next_cases i s t hx with ⟨hc, rfl⟩ | ⟨hc, u, c, hb, -⟩
  · exact absurd hok hc
  · exact ⟨(checkOperands_eq_ok_iff_admits i s).1 hc, _, hb⟩

/-- An ENC that ends with code 0 was admitted and found a block at its source. -/
theorem holds_block_of_exec_enc_ok {s t : State} (hx : exec .enc s = .next t) (hok : t.errcode = .ok) :
    s.admits .enc ∧ ∃ p : Block, s.holds s.opr.srcAddr.toNat p.toList := by
  obtain ⟨hadm, u, hbody⟩ := admits_of_exec_ok hx hok
  obtain ⟨l, hread, -⟩ := bind_ok hbody
  obtain ⟨hlen, hholds⟩ := memRead_ok hread
  exact ⟨hadm, Block.ofBytes l, by rwa [block_toList_ofBytes l hlen]⟩

/-- Two states that hold the same string and read alike outside it read alike everywhere. -/
theorem read_eq_of_holds_of_sameOutside {s t : State} {a n : Nat} {l : Bytes} (hs : s.holds a l) (ht : t.holds a l) (hn : l.length = n)
    (hout : s.sameOutside t [(a, n)]) (x : Nat) : Memory.read t.buf x = Memory.read s.buf x := by
  subst hn
  by_cases hx : inRegion (a, l.length) x
  · rw [read_of_holds s a l x hs hx.1 hx.2, read_of_holds t a l x ht hx.1 hx.2]
  · exact hout x (by simpa using hx)

theorem sameOutside_trans {s t u : State} {rs : List (Nat × Nat)} (hst : s.sameOutside t rs) (htu : t.sameOutside u rs) :
    s.sameOutside u rs := fun x hx => (htu x hx).trans (hst x hx)

end Sys2Proof.Machine

open Sys2Proof Sys2Proof.Machine

/-- Settles O21, entry by entry, and for the rounds by the States they leave behind. -/
theorem transformEntries : Obligations.TransformEntries := by
  refine ⟨fun b => ⟨load_at b, store_load b⟩, fun s r c => ⟨matrix4_at_ofFn .., matrix4_at_ofFn .., fun d hd => ?_, fun w n => ?_⟩,
    fun w b => ⟨⟨cipherState w b, rfl, cipherState_round w b, cipher_eq_store w b⟩,
      invCipherState w b, rfl, invCipherState_round w b, invCipher_eq_store w b⟩, fun s c => ?_⟩
  · obtain rfl : d = c + r := Fin.ext (hd.trans (Fin.val_add c r).symm)
    exact ⟨shiftRows_at s r c, by rw [invShiftRows_at, add_sub_cancel_right]⟩
  · rw [addRoundKey, matrix4_at_ofFn, wordByte_eq_setWidth]
  · simp only [mixColumns, invMixColumns, matrix4_at_ofFn, Fin.reduceAdd, zero_add, true_and]
    refine ⟨?_, ?_, ?_, ?_, ?_, ?_⟩ <;> ac_rfl

/-- Settles O22: in the middle the rounds cancel from the inside out, each with the SubBytes and ShiftRows after it. -/
theorem cipherRoundTrip : Obligations.CipherRoundTrip := fun w p => ⟨invCipher_cipher w p, cipher_invCipher w p⟩

/-- Settles O23: the command's work is the one block written. -/
theorem encWritesCipher : Obligations.EncWritesCipher := fun s p hadm hin =>
  exec_writes_block_of_admits hadm (by rw [bodyEnc_of_read s _ (memRead_of_holds s _ 16 _ hin p.length_toList), block_ofBytes_toList])

/-- Settles O24: the command's work is the one block written. -/
theorem decWritesInvCipher : Obligations.DecWritesInvCipher := fun s p hadm hin =>
  exec_writes_block_of_admits hadm (by rw [bodyDec_of_read s _ (memRead_of_holds s _ 16 _ hin p.length_toList), block_ofBytes_toList])

/-- Settles O25: ENC leaves Cipher of the block it found where DEC looks for one, and a schedule that DEC finds unchanged. -/
theorem decUndoesEncInPlace : Obligations.DecUndoesEncInPlace := by
  intro s t hplace hx hok
  obtain ⟨hadm, p, hin⟩ := holds_block_of_exec_enc_ok hx hok
  obtain ⟨t', hx', henc, hout, ht⟩ := encWritesCipher s p hadm hin
  obtain rfl : t' = t := by cases hx.symm.trans hx'; rfl
  have hadm' : t'.admits .dec := by rwa [ht, admits_ended_iff, admits_dec_iff_admits_enc]
  have hopr : t'.opr = s.opr := by rw [ht]; rfl
  have hsched : t'.sched = s.sched := by rw [ht]; rfl
  rw [hplace] at henc
  obtain ⟨u, hu, hdec, hout', huok⟩ := decWritesInvCipher t' (cipher s.sched p) hadm' (by rwa [hopr])
  rw [hsched, invCipher_cipher, hopr, hplace] at hdec
  rw [hopr] at hout'
  rw [hplace] at hout hout'
  exact ⟨u, hu, by rw [huok]; rfl, read_eq_of_holds_of_sameOutside hin hdec p.length_toList (sameOutside_trans hout hout')⟩

end

section
/-!
PROOFS. The order of a block's coefficients and the ring GF(2¹²⁸) (43_gcm.md R210 to R212). The product X • Y is the sum, over the
coefficients x_k that are 1, of Y times α^k, and each α^k times Y is k single multiplications by α. So the laws come down to
multiplication by α, which is linear over ⊕, and to the powers of α, of which every element is a sum.
-/

namespace Sys2Proof.Machine

/-! ### The value of a block, bit by bit (43_gcm.md R210) -/

/-- Bit i of a value put together from its last byte to its first. -/
theorem getLsbD_foldr_bytes (l : Bytes) {i : Nat} (hi : i < 128) :
    (l.foldr (fun x (acc : BitVec 128) => (acc <<< 8) ||| x.setWidth 128) 0#128).getLsbD i =
      (l.getD (i / 8) 0x00#8).getLsbD (i % 8) := by
  induction l generalizing i with
  | nil => simp
  | cons x l ih =>
    rw [List.foldr_cons, BitVec.getLsbD_or, BitVec.getLsbD_shiftLeft, BitVec.getLsbD_setWidth]
    by_cases h : i < 8
    · simp [h, hi, Nat.div_eq_of_lt h, Nat.mod_eq_of_lt h]
    · obtain ⟨n, rfl⟩ := Nat.exists_eq_add_of_le' (Nat.not_lt.1 h)
      simp [ih (i := n) (by omega), hi]

/-- Byte 15 of a block holds the lowest eight bits of its value, byte 0 the highest. -/
theorem getLsbD_int (x : Block) {i : Nat} (hi : i < 128) : (Block.int x).getLsbD i = x[15 - i / 8].getLsbD (i % 8) := by
  have hrev : x.toList.reverse.getD (i / 8) 0x00#8 = x[15 - i / 8] := by
    rw [List.getD_eq_getElem _ _ (by simp; omega), List.getElem_reverse, Vector.getElem_toList]
    simp
  rw [Block.int, List.foldl_eq_foldr_reverse, getLsbD_foldr_bytes _ hi, hrev]

theorem getLsbD_bytes16 (v : BitVec 128) {k j : Nat} (hk : k < 16) (hj : j < 8) :
    (bytes16 v)[k].getLsbD j = v.getLsbD (8 * (15 - k) + j) := by
  simp [bytes16, hj]

/-- The value of a block and the block of a value are inverse to each other. -/
theorem bytes16_int (x : Block) : bytes16 (Block.int x) = x := by
  ext k hk j hj
  have hbyte : 15 - (8 * (15 - k) + j) / 8 = k := by omega
  simp only [← BitVec.getLsbD_eq_getElem]
  rw [getLsbD_bytes16 _ hk hj, getLsbD_int x (by omega)]
  simp only [hbyte, Nat.mul_add_mod, Nat.mod_eq_of_lt hj]

theorem int_bytes16 (v : BitVec 128) : Block.int (bytes16 v) = v :=
  BitVec.eq_of_getLsbD_eq fun i hi => by
    rw [getLsbD_int _ hi, getLsbD_bytes16 v (by omega) (by omega), show 8 * (15 - (15 - i / 8)) + i % 8 = i by omega]

theorem int_xor (x y : Block) : Block.int (Block.xor x y) = Block.int x ^^^ Block.int y :=
  BitVec.eq_of_getLsbD_eq fun i hi => by
    rw [BitVec.getLsbD_xor, getLsbD_int _ hi, getLsbD_int _ hi, getLsbD_int _ hi, block_xor_getElem, BitVec.getLsbD_xor]

theorem bytes16_xor (u v : BitVec 128) : bytes16 (u ^^^ v) = Block.xor (bytes16 u) (bytes16 v) := by
  rw [← bytes16_int (Block.xor _ _), int_xor, int_bytes16, int_bytes16]

theorem coeff_int (x : Block) {k j : Nat} (hk : k < 16) (hj : j ≤ 7) :
    coeff (Block.int x) (8 * k + j) = x[k].getLsbD (7 - j) := by
  have hbyte : 15 - (127 - (8 * k + j)) / 8 = k := by omega
  have hbit : (127 - (8 * k + j)) % 8 = 7 - j := by omega
  rw [coeff, BitVec.getMsbD, decide_eq_true (by omega), Bool.true_and, getLsbD_int x (by omega)]
  simp only [Nat.add_one_sub_one, hbyte, hbit]

/-! ### Powers of α (43_gcm.md R210, R211) -/

theorem xorLinear_mulAlpha : XorLinear mulAlpha := by
  have hstep : ∀ v, mulAlpha v = (v >>> 1) ^^^ if v.getLsbD 0 then reduction else 0#128 := fun v => by
    simp only [mulAlpha, coeff, BitVec.getMsbD, Nat.reduceLT, decide_true, Bool.true_and, Nat.reduceSub]
    split <;> simp
  intro u v
  simp only [hstep]
  exact XorLinear.xor (f := (· >>> 1)) (fun a b => BitVec.ushiftRight_xor_distrib a b 1) (xorLinear_bit 0 reduction) u v

/-- α^k as a value: coefficient x_k alone is 1. -/
def alphaBits (k : Nat) : BitVec 128 := BitVec.twoPow 128 (127 - k)

theorem int_alphaPower {k : Nat} (hk : k < 128) : Block.int (alphaPower k) = alphaBits k := by
  revert k
  decide +kernel

/-- Up to α^127, multiplication by α moves the one coefficient a place on. -/
theorem mulAlpha_alphaBits {k : Nat} (hk : k < 127) : mulAlpha (alphaBits k) = alphaBits (k + 1) := by
  revert k
  decide +kernel

theorem iterate_mulAlpha_one {k : Nat} (hk : k < 128) : mulAlpha^[k] (alphaBits 0) = alphaBits k := by
  induction k with
  | zero => rfl
  | succ k ih => rw [Function.iterate_succ_apply', ih (by omega), mulAlpha_alphaBits (by omega)]

/-! ### The product (43_gcm.md R211, R212) -/

/-- After n iterations: the sum of the multiples α^k • y at the coefficients x_k = 1 with k < n, and the multiple α^n • y. Coefficient
x_k is bit k of the reversed value. -/
theorem foldl_gfmulStep (x y : BitVec 128) (n : Nat) :
    (List.range n).foldl (gfmulStep x) (0#128, y) = (bitSum x.reverse (fun k => mulAlpha^[k] y) n, mulAlpha^[n] y) := by
  induction n with
  | zero => rfl
  | succ n ih =>
    rw [List.range_succ, List.foldl_append, ih, List.foldl_cons, List.foldl_nil, gfmulStep,
      Function.iterate_succ_apply', bitSum, BitVec.getLsbD_reverse, coeff]
    cases x.getMsbD n <;> simp

theorem gfmulBits_eq_bitSum (x y : BitVec 128) : gfmulBits x y = bitSum x.reverse (fun k => mulAlpha^[k] y) 128 := by
  rw [gfmulBits, foldl_gfmulStep]

theorem xorLinear_gfmulBits_right (x : BitVec 128) : XorLinear (gfmulBits x) := fun y z => by
  simp only [gfmulBits_eq_bitSum]
  exact xorLinear_bitSum_terms x.reverse xorLinear_mulAlpha.iterate 128 y z

theorem xorLinear_reverse (w : Nat) : XorLinear fun a : BitVec w => a.reverse := fun a b =>
  BitVec.eq_of_getLsbD_eq fun _ _ => by simp only [BitVec.getLsbD_xor, BitVec.getLsbD_reverse, BitVec.getMsbD_xor]

theorem xorLinear_gfmulBits_left (y : BitVec 128) : XorLinear (gfmulBits · y) := by
  simp only [gfmulBits_eq_bitSum]
  exact (xorLinear_bitSum _ 128).comp (xorLinear_reverse 128)

theorem reverse_alphaBits {k : Nat} (hk : k < 128) : (alphaBits k).reverse = BitVec.twoPow 128 k := by
  revert k
  decide +kernel

/-- Of the terms of a sum, a power of x has one. -/
theorem bitSum_twoPow_left {v w k : Nat} (hk : k < v) (t : Nat → BitVec w) (n : Nat) :
    bitSum (BitVec.twoPow v k) t n = if k < n then t k else 0#w := by
  induction n with
  | zero => rfl
  | succ n ih =>
    rw [bitSum, ih, BitVec.getLsbD_twoPow]
    rcases Nat.lt_trichotomy k n with h | rfl | h
    · simp [h, h.ne, Nat.lt_succ_of_lt h]
    · simp [hk]
    · simp [h.ne', Nat.not_lt.2 h.le, Nat.not_lt.2 (Nat.succ_le_of_lt h)]

theorem gfmulBits_alphaBits_left {k : Nat} (hk : k < 128) (y : BitVec 128) : gfmulBits (alphaBits k) y = mulAlpha^[k] y := by
  rw [gfmulBits_eq_bitSum, reverse_alphaBits hk, bitSum_twoPow_left hk, if_pos hk]

theorem twoPow_eq_alphaBits {i : Nat} (hi : i < 128) : BitVec.twoPow 128 i = alphaBits (127 - i) := by
  rw [alphaBits, Nat.sub_sub_self (by omega)]

/-- Two powers of α multiply to the power of the sum of their exponents, in either order. -/
theorem gfmulBits_comm (x y : BitVec 128) : gfmulBits x y = gfmulBits y x := by
  refine XorLinear.ext₂ xorLinear_gfmulBits_right xorLinear_gfmulBits_left xorLinear_gfmulBits_left xorLinear_gfmulBits_right
    (fun i hi j hj => ?_) x y
  rw [twoPow_eq_alphaBits hi, twoPow_eq_alphaBits hj, gfmulBits_alphaBits_left (by omega), gfmulBits_alphaBits_left (by omega),
    ← iterate_mulAlpha_one (k := 127 - i) (by omega), ← iterate_mulAlpha_one (k := 127 - j) (by omega),
    ← Function.iterate_add_apply, ← Function.iterate_add_apply, Nat.add_comm]

theorem gfmulBits_iterate_mulAlpha (x y : BitVec 128) (k : Nat) : gfmulBits x (mulAlpha^[k] y) = mulAlpha^[k] (gfmulBits x y) := by
  simp only [gfmulBits_eq_bitSum, (xorLinear_mulAlpha.iterate k).map_bitSum, ← Function.iterate_add_apply, Nat.add_comm]

theorem gfmulBits_assoc (x y z : BitVec 128) : gfmulBits (gfmulBits x y) z = gfmulBits x (gfmulBits y z) := by
  rw [gfmulBits_eq_bitSum x y, (xorLinear_gfmulBits_left z).map_bitSum, gfmulBits_eq_bitSum x]
  simp only [gfmulBits_comm _ z, gfmulBits_iterate_mulAlpha]

/-- The product with α^k is k multiplications by α. -/
theorem gfmul128_alphaPower {k : Nat} (hk : k < 128) (y : Block) :
    gfmul128 (alphaPower k) y = bytes16 (mulAlpha^[k] (Block.int y)) := by
  rw [gfmul128, int_alphaPower hk, gfmulBits_alphaBits_left hk]

theorem gfmul128_comm (x y : Block) : gfmul128 x y = gfmul128 y x := by
  rw [gfmul128, gfmulBits_comm, gfmul128]

theorem gfmul128_assoc (x y z : Block) : gfmul128 (gfmul128 x y) z = gfmul128 x (gfmul128 y z) := by
  simp only [gfmul128, int_bytes16, gfmulBits_assoc]

theorem gfmul128_xor_right (x y z : Block) : gfmul128 x (Block.xor y z) = Block.xor (gfmul128 x y) (gfmul128 x z) := by
  rw [gfmul128, int_xor, xorLinear_gfmulBits_right, bytes16_xor, gfmul128, gfmul128]

theorem int_zero : Block.int Block.zero = 0#128 := by decide +kernel

theorem gfmul128_zero_left (x : Block) : gfmul128 Block.zero x = Block.zero := by
  rw [gfmul128, int_zero, (xorLinear_gfmulBits_left _).map_zero, ← int_zero, bytes16_int]

theorem gfmul128_one_left (x : Block) : gfmul128 (alphaPower 0) x = x := by
  rw [gfmul128_alphaPower (by omega), Function.iterate_zero_apply, bytes16_int]

theorem gfmul128_alpha_alphaPower {i : Nat} (hi : i < 127) : gfmul128 (alphaPower 1) (alphaPower i) = alphaPower (i + 1) := by
  rw [gfmul128_alphaPower (by omega), Function.iterate_one, int_alphaPower (by omega), mulAlpha_alphaBits hi,
    ← int_alphaPower (by omega), bytes16_int]

theorem gfmul128_alpha_alphaPower_last :
    gfmul128 (alphaPower 1) (alphaPower 127) = Vector.ofFn fun k => if k.val = 0 then 0xE1#8 else 0x00#8 := by
  rw [gfmul128_alphaPower (by omega)]
  decide +kernel

theorem alphaPower_zero_getElem : ∀ k (hk : k < 16), (alphaPower 0)[k] = if k = 0 then 0x80#8 else 0x00#8 := by
  decide

end Sys2Proof.Machine

open Sys2Proof Sys2Proof.Machine

/-- Settles O26, by the place of bit 7 - j of byte k in the value. -/
theorem coefficientBitOrder : Obligations.CoefficientBitOrder := fun x _ _ hk hj => coeff_int x hk hj

/-- Settles O27: each law of blocks is one of their values. -/
theorem gf128Laws : Obligations.Gf128Laws :=
  ⟨gfmul128_comm, gfmul128_assoc, gfmul128_xor_right, gfmul128_zero_left, gfmul128_one_left,
    fun x y k hk => ⟨block_xor_getElem x y k hk, block_zero_getElem k hk, alphaPower_zero_getElem k hk⟩,
    fun _ hi => gfmul128_alpha_alphaPower hi, gfmul128_alpha_alphaPower_last⟩

end

section
/-!
PROOFS. The blocks of GHASH, the counter blocks, counter mode byte by byte, and the round trip and tampering of GCM (43_gcm.md R220
to R225, R228, R233, R234). GCTR is read one piece at a time, as a function of the string and not of the list of its pieces.
-/

namespace Sys2Proof.Machine

/-! ### GHASH (43_gcm.md R220) -/

/-- A string of whole blocks is cut into whole blocks. -/
theorem cutBlocks_length_eq (n : Nat) {l : Bytes} (hl : l.length % 16 = 0) : ∀ b ∈ cutBlocks n l, b.length = 16 := by
  induction n generalizing l with
  | zero => exact nofun
  | succ n ih =>
    cases l with
    | nil => exact nofun
    | cons x l =>
      rw [cutBlocks, List.forall_mem_cons]
      rw [List.length_cons] at hl
      exact ⟨by simp only [List.length_take, List.length_cons]; omega,
        ih (by simp only [List.length_drop, List.length_cons]; omega)⟩

theorem pad16_length_mod (l : Bytes) : (pad16 l).length % 16 = 0 := by
  rw [pad16, List.length_append, List.length_replicate]
  omega

theorem ghashBlocks_length_eq (a c : Bytes) : ∀ b ∈ ghashBlocks a c, b.length = 16 := by
  simp only [ghashBlocks, List.forall_mem_append, List.forall_mem_singleton]
  exact ⟨⟨cutBlocks_length_eq _ (pad16_length_mod a), cutBlocks_length_eq _ (pad16_length_mod c)⟩, by simp [lengthBlock]⟩

theorem ghashBlocks_flatten (a c : Bytes) : (ghashBlocks a c).flatten = pad16 a ++ pad16 c ++ lengthBlock a c := by
  rw [ghashBlocks, List.flatten_append, List.flatten_append, blocks_flatten, blocks_flatten, List.flatten_singleton]

theorem bigEndian_be64 {n : Nat} (hn : n < 2 ^ 64) : bigEndian (be64 n) = n := by
  have hbytes : be64 n = [56, 48, 40, 32, 24, 16, 8, 0].map fun k => BitVec.ofNat 8 (n >>> k) := rfl
  simp only [hbytes, bigEndian, List.map, List.foldl, BitVec.toNat_ofNat, Nat.shiftRight_eq_div_pow]
  omega

/-- The accumulator after the first i blocks. -/
def ghashAfter (h : Block) (a c : Bytes) (i : Nat) : Block := ((ghashBlocks a c).take i).foldl (ghashStep h) Block.zero

theorem ghashAfter_succ (h : Block) (a c : Bytes) {i : Nat} (hi : i < (ghashBlocks a c).length) :
    ghashAfter h a c (i + 1) = ghashStep h (ghashAfter h a c i) (ghashBlocks a c)[i] := by
  rw [ghashAfter, ← List.take_concat_get' _ _ hi, List.foldl_concat, ghashAfter]

theorem ghash_eq_ghashAfter (h : Block) (a c : Bytes) : ghash h a c = ghashAfter h a c (ghashBlocks a c).length := by
  rw [ghash, ghashAfter, List.take_length]

/-! ### Counter blocks (43_gcm.md R222, R223) -/

theorem initialCounter_toList {n : Bytes} (hn : n.length = 12) :
    (initialCounter n).toList = n ++ [0x00#8, 0x00#8, 0x00#8, 0x01#8] :=
  block_toList_ofBytes _ (by simp [hn])

theorem initialCounter_injective {n n' : Bytes} (hn : n.length = 12) (hn' : n'.length = 12)
    (h : initialCounter n = initialCounter n') : n = n' := by
  have happ := congrArg Vector.toList h
  rw [initialCounter_toList hn, initialCounter_toList hn'] at happ
  exact List.append_cancel_right happ

theorem inc32_getElem_of_lt (cb : Block) {k : Nat} (hk : k < 12) : (inc32 cb)[k] = cb[k] := by
  simp [inc32, Block.ofBytes, List.getD_eq_getElem?_getD, hk]

theorem inc32_low (cb : Block) :
    be32 (inc32 cb)[12] (inc32 cb)[13] (inc32 cb)[14] (inc32 cb)[15] = be32 cb[12] cb[13] cb[14] cb[15] + 1#32 := by
  rw [← be32_wordByte (be32 cb[12] cb[13] cb[14] cb[15] + 1#32)]
  simp [inc32, Block.ofBytes, List.getD_eq_getElem?_getD, wordBytes]

/-! ### Counter mode (43_gcm.md R224) -/

theorem gctr_of_ne_nil (w : Schedule) (cb : Block) {x : Bytes} (hx : x ≠ []) :
    gctr w cb x = xorFirst (x.take 16) (cipher w (inc32 cb)) ++ gctr w (inc32 cb) (x.drop 16) := by
  rw [gctr, blocks_cons x hx, gctrBlocks, gctr]

theorem incTimes_inc32 (n : Nat) (cb : Block) : incTimes n (inc32 cb) = incTimes (n + 1) cb := by
  induction n with
  | zero => rfl
  | succ n ih => exact congrArg inc32 ih

theorem xorFirst_getElem? (x : Bytes) (k : Block) {j : Nat} (hj : j < 16) : (xorFirst x k)[j]? = x[j]?.map (· ^^^ k[j]) := by
  have hk : k.toList[j]? = some k[j] := by simp [hj]
  rw [xorFirst, Block.toBytes, List.getElem?_zipWith, hk]
  cases x[j]? <;> rfl

theorem xorFirst_take_length (x : Bytes) (k : Block) : (xorFirst (x.take 16) k).length = min 16 x.length := by
  rw [xorFirst_length _ _ (List.length_take_le 16 x), List.length_take]

/-- Each whole piece before the byte takes one counter block. -/
theorem gctr_getElem? (w : Schedule) (cb : Block) (x : Bytes) (i : Nat) {j : Nat} (hj : j < 16) (hx : 16 * i + j < x.length) :
    (gctr w cb x)[16 * i + j]? = x[16 * i + j]?.map (· ^^^ (cipher w (incTimes (i + 1) cb))[j]) := by
  induction i generalizing cb x with
  | zero =>
    rw [gctr_of_ne_nil w cb (List.ne_nil_of_length_pos (by omega)), List.getElem?_append_left (by rw [xorFirst_take_length]; omega),
      Nat.mul_zero, Nat.zero_add, xorFirst_getElem? _ _ hj, List.getElem?_take_of_lt hj]
    rfl
  | succ i ih =>
    have hpos : 16 * (i + 1) + j = 16 + (16 * i + j) := by omega
    have hdrop : 16 * i + j < (x.drop 16).length := by rw [List.length_drop]; omega
    have hlen : (xorFirst (x.take 16) (cipher w (inc32 cb))).length = 16 := by rw [xorFirst_take_length]; omega
    rw [gctr_of_ne_nil w cb (List.ne_nil_of_length_pos (by omega)), hpos, List.getElem?_append_right (by omega), hlen,
      Nat.add_sub_cancel_left, ih _ _ hdrop, List.getElem?_drop, incTimes_inc32]

theorem gctr_gctr (w : Schedule) (cb : Block) (x : Bytes) : gctr w cb (gctr w cb x) = x := by
  refine List.ext_getElem?' fun m hm => ?_
  rw [gctr_length, gctr_length, Nat.max_self, ← Nat.div_add_mod m 16] at hm
  have hlt : m % 16 < 16 := Nat.mod_lt m (by omega)
  rw [← Nat.div_add_mod m 16, gctr_getElem? w cb _ _ hlt (by rwa [gctr_length]), gctr_getElem? w cb _ _ hlt hm, Option.map_map]
  simp [Function.comp_def]

/-! ### Tags (43_gcm.md R225, R228, R234) -/

theorem gcmAd_of_tag_eq {w : Schedule} {h t : Block} {n c a : Bytes} (ht : tagOf w h n a c = t) :
    gcmAd w h n c a t = some (gctr w (initialCounter n) c) := by
  rw [gcmAd, ctEqual, decide_eq_true ht, if_pos rfl]

theorem gcmAd_of_tag_ne {w : Schedule} {h t : Block} {n c a : Bytes} (ht : tagOf w h n a c ≠ t) : gcmAd w h n c a t = none := by
  rw [gcmAd, ctEqual, decide_eq_false ht, if_neg Bool.false_ne_true]

theorem cipher_injective (w : Schedule) : Function.Injective (cipher w) :=
  Function.LeftInverse.injective (invCipher_cipher w)

theorem block_xor_right_injective (b : Block) : Function.Injective (Block.xor · b) := fun x y h => by
  refine Vector.ext fun i hi => ?_
  have hbyte := congrArg (·[i]) h
  simpa using hbyte

/-- With one key, one AAD and one ciphertext, different nonces have different tags. -/
theorem tagOf_nonce_injective {w : Schedule} {h : Block} {n n' a c : Bytes} (hn : n.length = 12) (hn' : n'.length = 12)
    (ht : tagOf w h n a c = tagOf w h n' a c) : n = n' :=
  initialCounter_injective hn hn' (cipher_injective w (block_xor_right_injective _ ht))

end Sys2Proof.Machine

open Sys2Proof Sys2Proof.Machine

/-- Settles O28: the accumulator after each block is the fold over the blocks up to it. -/
theorem ghashTakesWholeBlocks : Obligations.GhashTakesWholeBlocks := by
  intro a c
  refine ⟨ghashBlocks_length_eq a c,
    ⟨(16 - a.length % 16) % 16, (16 - c.length % 16) % 16, be64 (8 * a.length), be64 (8 * c.length), by omega, by omega, by omega,
      by omega, be64_length _, be64_length _, bigEndian_be64, bigEndian_be64, ghashBlocks_flatten a c⟩,
    fun h => ⟨ghashAfter h a c, block_zero_getElem, fun i hi => ?_, ghash_eq_ghashAfter h a c⟩⟩
  exact ⟨_, block_toList_ofBytes _ (ghashBlocks_length_eq a c _ (List.getElem_mem hi)), ghashAfter_succ h a c hi⟩

/-- Settles O29, by the bytes of J0 and of inc32. -/
theorem counterBlocksStartAndWrap : Obligations.CounterBlocksStartAndWrap :=
  ⟨fun _ hn => initialCounter_toList hn, fun cb => ⟨fun _ hk => inc32_getElem_of_lt cb hk, inc32_low cb⟩⟩

/-- Settles O30, by induction on the number of whole pieces before the byte. -/
theorem gctrUsesIncrementedCounters : Obligations.GctrUsesIncrementedCounters := fun w j0 x =>
  ⟨gctr_length w j0 x, fun i _ hj hx => gctr_getElem? w j0 x i hj hx⟩

/-- Settles O31: the tag is recomputed from the same ciphertext, and the keystream cancels. -/
theorem gcmRoundTrip : Obligations.GcmRoundTrip := fun w _ n p _ =>
  (gcmAd_of_tag_eq rfl).trans (congrArg some (gctr_gctr w (initialCounter n) p))

/-- Settles O32: a nonce with the same tag would be the same nonce. -/
theorem tamperedTagOrNonceFails : Obligations.TamperedTagOrNonceFails := by
  rintro w h n c a t hn rfl
  exact ⟨fun _ ht' => gcmAd_of_tag_ne ht'.symm, fun _ hn' hne => gcmAd_of_tag_ne fun ht => hne (tagOf_nonce_injective hn' hn ht)⟩

end

section
/-!
PROOFS. The commands GCM_ENC, GCM_DEC, GHASH and GFMUL128 on admitted regions with defined inputs, and GCM_DEC after GCM_ENC in place
(43_gcm.md R227, R229, R231 to R233; 60_exceptions.md R268, R269).
-/

namespace Sys2Proof.Machine

/-! ### What is kept outside the regions written -/

theorem sameOutside_mono {s t : State} {rs rs' : List (Nat × Nat)} (h : s.sameOutside t rs) (hsub : rs ⊆ rs') :
    s.sameOutside t rs' := fun x hx => h x fun r hr => hx r (hsub hr)

/-- A region in which two states hold the same string need not be excepted. -/
theorem sameOutside_of_holds {s t : State} {a : Nat} {l : Bytes} {rs : List (Nat × Nat)} (hs : s.holds a l) (ht : t.holds a l)
    (hout : s.sameOutside t ((a, l.length) :: rs)) : s.sameOutside t rs := fun x hx => by
  by_cases hin : inRegion (a, l.length) x
  · rw [read_of_holds s a l x hs hin.1 hin.2, read_of_holds t a l x ht hin.1 hin.2]
  · exact hout x (List.forall_mem_cons.2 ⟨hin, hx⟩)

theorem sameOutside_memWrite (s : State) (a : Nat) (l : Bytes) : s.sameOutside (s.memWrite a l) [(a, l.length)] := fun x hx =>
  memory_read_writeAll_outside [(a, l)] s.buf x (by simpa using hx)

theorem apart_comm (r q : Nat × Nat) : apart r q ↔ apart q r := forall_congr' fun _ => not_congr and_comm

/-- A string is still held where no region written has a byte of it. -/
theorem holds_of_sameOutside {s t : State} {a : Nat} {l : Bytes} {rs : List (Nat × Nat)} (hs : s.holds a l)
    (hout : s.sameOutside t rs) (hap : ∀ r ∈ rs, apart r (a, l.length)) : t.holds a l := fun k hk =>
  (hout (a + k) fun r hr hin => hap r hr _ ⟨hin, Nat.le_add_right a k, Nat.add_lt_add_left hk a⟩).trans (hs k hk)

/-- An admitted command whose work is two strings written apart with code 0 completes, and changes nothing else (60_exceptions.md
R269). -/
theorem exec_writes_two_of_admits {i : Instr} {s : State} {a b : Nat} {l m : Bytes} (hadm : s.admits i)
    (hbody : bodyOf i s = .ok ((s.memWrite a l).memWrite b m, .ok)) (hap : apart (a, l.length) (b, m.length)) :
    ∃ t, exec i s = .next t ∧ t.holds a l ∧ t.holds b m ∧ s.sameOutside t [(a, l.length), (b, m.length)] ∧
      t = { s.ended .ok with buf := t.buf } := by
  have hfirst : (s.memWrite a l).holds a l := holds_of_buf_eq_writeBytes _ s.buf a l rfl
  have hsecond := sameOutside_memWrite (s.memWrite a l) b m
  refine ⟨_, exec_of_body i s _ _ ((checkOperands_eq_ok_iff_admits i s).2 hadm) hbody, ?_,
    holds_of_buf_eq_writeBytes _ (s.memWrite a l).buf b m rfl, ?_, rfl⟩
  · exact holds_of_sameOutside hfirst hsecond (List.forall_mem_singleton.2 ((apart_comm _ _).1 hap))
  · exact sameOutside_trans (sameOutside_mono (sameOutside_memWrite s a l) (by simp)) (sameOutside_mono hsecond (by simp))

/-! ### GCM_DEC after GCM_ENC (43_gcm.md R227, R229) -/

/-- GCM_DEC has the regions of GCM_ENC, the tag now an input, and its overlap rule asks for less (30_encoding.md R94). -/
theorem admits_gcmDec_of_admits_gcmEnc {s : State} (h : s.admits .gcmEnc) : s.admits .gcmDec := by
  obtain ⟨hkey, hlen, hfits, hdst, haad, hnonce, -, -, -, htag⟩ := h
  refine ⟨fun _ => hkey (by simp [tableNeedsKey]), by simpa [tableLengthOk] using hlen, fun r hr => hfits r ?_,
    hdst, haad, hnonce, htag⟩
  simp only [tableInputs, tableOutputs, List.mem_append, List.mem_cons] at hr ⊢
  tauto

theorem gcmEnc_ciphertext_apart_tag {s : State} (h : s.admits .gcmEnc) :
    apart (s.opr.dstAddr.toNat, s.opr.srcLen.toNat) (s.opr.tagAddr.toNat, 16) := by
  obtain ⟨-, -, -, -, -, -, -, -, -, hap⟩ := h
  exact hap

/-- What GCM_ENC writes has no byte of its AAD or its nonce (60_exceptions.md R265). -/
theorem gcmEnc_outputs_apart {s : State} (h : s.admits .gcmEnc) :
    (∀ r ∈ tableOutputs .gcmEnc s.opr, apart r (s.opr.aadAddr.toNat, s.opr.aadLen.toNat)) ∧
      ∀ r ∈ tableOutputs .gcmEnc s.opr, apart r (s.opr.nonceAddr.toNat, 12) := by
  obtain ⟨-, ⟨-, -, hlen⟩, -, -, hdstaad, hdstnonce, -, htagaad, htagnonce, -⟩ := h
  rw [hlen (.inl rfl)] at hdstnonce htagnonce
  simp only [tableOutputs, List.forall_mem_cons]
  exact ⟨⟨hdstaad, htagaad, nofun⟩, hdstnonce, htagnonce, nofun⟩

/-- A GCM_ENC that ends with code 0 was admitted and found its plaintext, its AAD and its nonce. -/
theorem holds_inputs_of_exec_gcmEnc_ok {s t : State} (hx : exec .gcmEnc s = .next t) (hok : t.errcode = .ok) :
    s.admits .gcmEnc ∧ ∃ p a n : Bytes, (p.length = s.opr.srcLen.toNat ∧ s.holds s.opr.srcAddr.toNat p) ∧
      (a.length = s.opr.aadLen.toNat ∧ s.holds s.opr.aadAddr.toNat a) ∧
      (n.length = 12 ∧ s.holds s.opr.nonceAddr.toNat n) := by
  obtain ⟨hadm, u, hbody⟩ := admits_of_exec_ok hx hok
  obtain ⟨p, hp, hbody⟩ := bind_ok hbody
  obtain ⟨a, ha, hbody⟩ := bind_ok hbody
  obtain ⟨n, hn, -⟩ := bind_ok hbody
  exact ⟨hadm, p, a, n, memRead_ok hp, memRead_ok ha, memRead_ok hn⟩

end Sys2Proof.Machine

open Sys2Proof Sys2Proof.Machine

/-- Settles O33: the command's work is the two strings written. -/
theorem gcmEncWritesCiphertextAndTag : Obligations.GcmEncWritesCiphertextAndTag := by
  intro s n p a hadm hplen hp halen ha hnlen hn
  have hbody := bodyGcmEnc_of_read s n p a (memRead_of_holds s _ _ p hp hplen) (memRead_of_holds s _ _ a ha halen)
    (memRead_of_holds s _ _ n hn hnlen)
  have hclen : (gcmAe s.sched s.hsub n p a).1.length = s.opr.srcLen.toNat := (gctr_length _ _ p).trans hplen
  have htlen : (gcmAe s.sched s.hsub n p a).2.toList.length = 16 := Vector.length_toList
  have h := exec_writes_two_of_admits hadm hbody (by rw [hclen, htlen]; exact gcmEnc_ciphertext_apart_tag hadm)
  rwa [hclen, htlen] at h

/-- Settles O34, by the comparison of the tags. -/
theorem gcmDecReleasesAllOrNothing : Obligations.GcmDecReleasesAllOrNothing := by
  intro s n c a tag hadm hclen hc halen ha hnlen hn htag
  have hbody := bodyGcmDec_of_read s n c a tag (memRead_of_holds s _ _ c hc hclen) (memRead_of_holds s _ _ a ha halen)
    (memRead_of_holds s _ _ n hn hnlen) (memRead_of_holds s _ _ _ htag tag.length_toList)
  refine ⟨fun (heq : tagOf s.sched s.hsub n a c = tag) => ?_, fun (hne : tagOf s.sched s.hsub n a c ≠ tag) => ?_⟩
  · rw [if_pos heq] at hbody
    simpa only [gctr_length, hclen] using exec_writes_of_admits hadm hbody
  · rw [if_neg hne] at hbody
    exact exec_of_body _ s _ _ ((checkOperands_eq_ok_iff_admits _ s).2 hadm) hbody

/-- Settles O36: the command's work is the one block written. -/
theorem ghashWritesHash : Obligations.GhashWritesHash := fun s a c hadm halen ha hclen hc =>
  exec_writes_block_of_admits hadm
    (bodyGhash_of_read s a c (memRead_of_holds s _ _ a ha halen) (memRead_of_holds s _ _ c hc hclen))

/-- Settles O37: the command's work is the one block written. -/
theorem gfmul128WritesProduct : Obligations.Gfmul128WritesProduct := fun s x y hadm hin =>
  exec_writes_block_of_admits hadm (bodyGfmul128_of_read s x y (memRead_of_holds s _ 32 _ hin (by simp)))

/-- Settles O35: GCM_ENC leaves the ciphertext, the tag, and the AAD and the nonce it found where GCM_DEC looks for them. -/
theorem gcmDecUndoesGcmEncInPlace : Obligations.GcmDecUndoesGcmEncInPlace := by
  intro s t hplace hx hok
  obtain ⟨hadm, p, a, n, ⟨hplen, hp⟩, ⟨halen, ha⟩, hnlen, hn⟩ := holds_inputs_of_exec_gcmEnc_ok hx hok
  obtain ⟨t', hx', hc, htag, hout, ht⟩ := gcmEncWritesCiphertextAndTag s n p a hadm hplen hp halen ha hnlen hn
  obtain rfl : t' = t := by cases hx.symm.trans hx'; rfl
  obtain ⟨m, rfl⟩ : ∃ m, t' = { s.ended .ok with buf := m } := ⟨_, ht⟩
  obtain ⟨haad, hnonce⟩ := gcmEnc_outputs_apart hadm
  rw [hplace] at hc
  have hadm' := (admits_ended_iff _ s .ok m).2 (admits_gcmDec_of_admits_gcmEnc hadm)
  have ha' := holds_of_sameOutside ha hout (by rwa [halen])
  have hn' := holds_of_sameOutside hn hout (by rwa [hnlen])
  obtain ⟨u, hu, hdec, hout', huok⟩ := (gcmDecReleasesAllOrNothing _ n _ a _ hadm' ((gctr_length _ _ p).trans hplen) hc halen ha'
    hnlen hn' htag).1 rfl
  have hp' : u.holds s.opr.srcAddr.toNat p := by
    rw [← hplace, ← gctr_gctr s.sched (initialCounter n) p]
    exact hdec
  have hkept : s.sameOutside u [(s.opr.srcAddr.toNat, p.length), (s.opr.tagAddr.toNat, 16)] := by
    rw [← hplace, hplen]
    exact sameOutside_trans hout (sameOutside_mono hout' (List.cons_subset_cons _ (List.nil_subset _)))
  exact ⟨u, hu, by rw [huok]; rfl, sameOutside_of_holds hp hp' hkept⟩

end

section
/-!
PROOFS. The checks of a command, in their fixed order, and the ways in which a command ends with an error code (60_exceptions.md
R261 to R269).
-/

namespace Sys2Proof.Machine

/-! ### What the checks answer -/

/-- The code the checks of a command answer, and why: one constructor per rule of 60_exceptions.md, each with the checks before it
passed (R269). -/
inductive State.ChecksGive (s : State) (i : Instr) : ResultCode → Prop
  /-- R262: the key is needed and not there. -/
  | noKey (hneeds : tableNeedsKey i) (hkey : s.keyValid = false) : s.ChecksGive i .noKey
  /-- R263: the key has another length than 32. -/
  | keyLength (hi : i = .keyexp) (hlen : s.opr.srcLen ≠ 32#32) : s.ChecksGive i .invalidKeyLength
  /-- R263: the block has another length than 16. -/
  | blockLength (hi : i = .enc ∨ i = .dec) (hkey : s.keyValid = true) (hlen : s.opr.srcLen ≠ 16#32) :
    s.ChecksGive i .invalidBlockLength
  /-- R263: the nonce has another length than 12. -/
  | nonceLength (hi : i = .gcmEnc ∨ i = .gcmDec) (hkey : s.keyValid = true) (hlen : s.opr.nonceLen ≠ 12#32) :
    s.ChecksGive i .unsupportedNonceLength
  /-- R264: some region is out of range. -/
  | range (hkey : tableNeedsKey i → s.keyValid = true) (hlen : tableLengthOk i s.opr)
    (hfits : ¬ ∀ r ∈ tableInputs i s.opr ++ tableOutputs i s.opr, s.fits r.1 r.2) : s.ChecksGive i .rangeError
  /-- R265: two regions overlap where they must not. -/
  | overlap (hkey : tableNeedsKey i → s.keyValid = true) (hlen : tableLengthOk i s.opr)
    (hfits : ∀ r ∈ tableInputs i s.opr ++ tableOutputs i s.opr, s.fits r.1 r.2) (hclash : ¬ tableNoClash i s.opr) :
    s.ChecksGive i .overlapError
  /-- R269: every check has passed. -/
  | pass (hadm : s.admits i) : s.ChecksGive i .ok

/-- The key check passes where the key is there or not needed (60_exceptions.md R262). -/
theorem keyCheck_eq_false {i : Instr} {s : State} (hkey : tableNeedsKey i → s.keyValid = true) :
    ((operandsOf i s).needsKey && !s.keyValid) = false := by
  simpa [operandsOf_needsKey_iff] using hkey

/-- The code of a length check that fails is the answer where the key check passes. -/
theorem checkOperands_of_lengthError {i : Instr} {s : State} {e : ResultCode} (hkey : tableNeedsKey i → s.keyValid = true)
    (hlen : (operandsOf i s).lengthError = some e) : s.checkOperands (operandsOf i s) = e := by
  simp [State.checkOperands, CommandOperands.check, keyCheck_eq_false hkey, hlen]

/-- Where the key and length checks pass, the ranges and the overlaps decide. -/
theorem checkOperands_of_lengthOk {i : Instr} {s : State} (hkey : tableNeedsKey i → s.keyValid = true)
    (hlen : tableLengthOk i s.opr) :
    s.checkOperands (operandsOf i s) =
      if !(operandsOf i s).inRange s.config.bufSize then .rangeError
      else if (operandsOf i s).clash then .overlapError else .ok := by
  simp [State.checkOperands, CommandOperands.check, keyCheck_eq_false hkey, (operandsOf_lengthError_eq_none_iff i s).2 hlen]

/-- The machine's checks answer the code the rules give. -/
theorem checkOperands_of_checksGive {i : Instr} {s : State} {c : ResultCode} (h : s.ChecksGive i c) :
    s.checkOperands (operandsOf i s) = c := by
  cases h with
  | noKey hneeds hkey =>
    simp [State.checkOperands, CommandOperands.check, (operandsOf_needsKey_iff i s).2 hneeds, hkey]
  | keyLength hi hlen =>
    subst hi
    exact checkOperands_of_lengthError (by simp [tableNeedsKey]) (if_neg hlen)
  | blockLength hi hkey hlen =>
    rcases hi with rfl | rfl <;> exact checkOperands_of_lengthError (fun _ => hkey) (if_neg hlen)
  | nonceLength hi hkey hlen =>
    rcases hi with rfl | rfl <;> exact checkOperands_of_lengthError (fun _ => hkey) (if_neg hlen)
  | range hkey hlen hfits =>
    rw [← operandsOf_inRange_iff, Bool.not_eq_true] at hfits
    simp [checkOperands_of_lengthOk hkey hlen, hfits]
  | overlap hkey hlen hfits hclash =>
    rw [← operandsOf_inRange_iff] at hfits
    rw [← operandsOf_clash_eq_false_iff, Bool.not_eq_false] at hclash
    simp [checkOperands_of_lengthOk hkey hlen, hfits, hclash]
  | pass hadm => exact (checkOperands_eq_ok_iff_admits i s).2 hadm

/-- The rules leave no case out. -/
theorem exists_checksGive (i : Instr) (s : State) : ∃ c, s.ChecksGive i c := by
  by_cases hkey : tableNeedsKey i → s.keyValid = true
  case neg =>
    obtain ⟨hneeds, hno⟩ := Classical.not_imp.1 hkey
    exact ⟨_, .noKey hneeds (Bool.eq_false_iff.2 hno)⟩
  by_cases hklen : i = .keyexp → s.opr.srcLen = 32#32
  case neg =>
    obtain ⟨hi, hne⟩ := Classical.not_imp.1 hklen
    exact ⟨_, .keyLength hi hne⟩
  by_cases hblen : i = .enc ∨ i = .dec → s.opr.srcLen = 16#32
  case neg =>
    obtain ⟨hi, hne⟩ := Classical.not_imp.1 hblen
    exact ⟨_, .blockLength hi (hkey (by unfold tableNeedsKey; tauto)) hne⟩
  by_cases hnlen : i = .gcmEnc ∨ i = .gcmDec → s.opr.nonceLen = 12#32
  case neg =>
    obtain ⟨hi, hne⟩ := Classical.not_imp.1 hnlen
    exact ⟨_, .nonceLength hi (hkey (by unfold tableNeedsKey; tauto)) hne⟩
  have hlen : tableLengthOk i s.opr := ⟨hklen, hblen, hnlen⟩
  by_cases hfits : ∀ r ∈ tableInputs i s.opr ++ tableOutputs i s.opr, s.fits r.1 r.2
  case neg => exact ⟨_, .range hkey hlen hfits⟩
  by_cases hclash : tableNoClash i s.opr
  case neg => exact ⟨_, .overlap hkey hlen hfits hclash⟩
  exact ⟨_, .pass ⟨hkey, hlen, hfits, hclash⟩⟩

/-- The machine's checks answer a code exactly when the rules give it. -/
theorem checkOperands_eq_iff_checksGive {i : Instr} {s : State} {c : ResultCode} :
    s.checkOperands (operandsOf i s) = c ↔ s.ChecksGive i c := by
  refine ⟨fun h => ?_, checkOperands_of_checksGive⟩
  obtain ⟨c', hc'⟩ := exists_checksGive i s
  rwa [← h, checkOperands_of_checksGive hc']

/-! ### How a command ends with an error -/

/-- A command ends with the code its checks give, where that is not 0 (60_exceptions.md R266). -/
theorem exec_of_checksGive {i : Instr} {s : State} {e : ResultCode} (h : s.ChecksGive i e) (he : e ≠ .ok) :
    exec i s = .next (s.ended e) :=
  (exec_eq_runCommand i s).trans (runCommand_of_failed _ _ _ e (checkOperands_of_checksGive h) he)

/-- A command whose code is not 0 has failed a check, or it is GCM_DEC and the tags differ; either way it has only ended
(60_exceptions.md R267, R268). -/
theorem exec_failed_cases {i : Instr} {s t : State} (h : exec i s = .next t) (hcode : t.errcode ≠ .ok) :
    (∃ e, s.ChecksGive i e ∧ t = s.ended e) ∨ (i = .gcmDec ∧ t = s.ended .authenticationFailure) := by
  rcases exec_next_cases i s t h with ⟨-, rfl⟩ | ⟨-, u, c, hb, rfl⟩
  · exact .inl ⟨_, checkOperands_eq_iff_checksGive.1 rfl, rfl⟩
  · rcases bodyOf_ok i s u c hb with ⟨-, rfl, -⟩ | ⟨hi, rfl, rfl⟩ | ⟨-, rfl, -⟩
    · exact absurd rfl hcode
    · exact .inr ⟨hi, rfl⟩
    · exact absurd rfl hcode

/-- A command that ends with a code other than 0 and 3 has failed the check of that code. -/
theorem checksGive_of_exec {i : Instr} {s t : State} {e : ResultCode} (h : exec i s = .next t) (hcode : t.errcode = e)
    (hok : e ≠ .ok) (htag : e ≠ .authenticationFailure) : s.ChecksGive i e := by
  subst hcode
  rcases exec_failed_cases h hok with ⟨e, he, rfl⟩ | ⟨-, rfl⟩
  · exact he
  · exact absurd rfl htag

/-- The engine's turn on a word that is no command ends with IllegalCommand (60_exceptions.md R261). -/
theorem engineTurn_of_illegal {s : State} (hb : s.busy = true) (hw : wellFormedWord s.latch = false) :
    engineTurn s = .next (s.ended .illegalCommand) := by
  obtain ⟨e, he⟩ := (decode_error_iff s.latch).2 hw
  exact (engineTurn_of_busy hb).trans (engineStep_of_decode_error he)

end Sys2Proof.Machine

open Sys2Proof Sys2Proof.Machine

/-- Settles O4: the step is the engine's turn, scripted or not (log 2). -/
theorem illegalWordEndsWithCode5 : Obligations.IllegalWordEndsWithCode5 := by
  intro s hbusy hfields
  have hword := (wellFormedWord_eq_false_iff s.latch).2 hfields
  refine ⟨fun hnil => ?_, fun rest hcons => ?_⟩
  · exact (step_of_nil s hnil).trans (engineTurn_of_illegal hbusy hword)
  · exact (step_of_engine hcons).trans (engineTurn_of_illegal (s := { s with script := rest }) hbusy hword)

/-- Settles O5: the checks of a command's word are the checks of the command's operands. -/
theorem checksPassWhenAdmitted : Obligations.ChecksPassWhenAdmitted := by
  intro s i
  rw [State.check, decode_encode]
  exact checkOperands_eq_ok_iff_admits i s

/-- Settles O6: the key check comes first, and only commands that need the key can fail it. -/
theorem noKeyEndsWithCode6 : Obligations.NoKeyEndsWithCode6 := by
  refine fun s i => ⟨fun hneeds hkey => exec_of_checksGive (.noKey hneeds hkey) nofun, fun t hi hx hcode => ?_⟩
  cases checksGive_of_exec hx hcode nofun nofun with
  | noKey hneeds => rcases hi with rfl | rfl | rfl <;> simp [tableNeedsKey] at hneeds

/-- Settles O7: each length code is the code of one check, which the other commands do not have. -/
theorem wrongLengthEndsWithItsCode : Obligations.WrongLengthEndsWithItsCode := by
  refine fun s => ⟨fun hlen => exec_of_checksGive (.keyLength rfl hlen) nofun, fun hkey hlen => ⟨?_, ?_⟩,
    fun hkey hlen => ⟨?_, ?_⟩, fun i t hi hx => ⟨fun hcode => ?_, fun hcode => ?_, fun hcode => ?_⟩⟩
  · exact exec_of_checksGive (.blockLength (.inl rfl) hkey hlen) nofun
  · exact exec_of_checksGive (.blockLength (.inr rfl) hkey hlen) nofun
  · exact exec_of_checksGive (.nonceLength (.inl rfl) hkey hlen) nofun
  · exact exec_of_checksGive (.nonceLength (.inr rfl) hkey hlen) nofun
  · cases checksGive_of_exec hx hcode nofun nofun with
    | keyLength hi' => simp [hi'] at hi
  · cases checksGive_of_exec hx hcode nofun nofun with
    | blockLength hi' => rcases hi' with rfl | rfl <;> simp at hi
  · cases checksGive_of_exec hx hcode nofun nofun with
    | nonceLength hi' => rcases hi' with rfl | rfl <;> simp at hi

/-- Settles O8: the range check comes before the overlap check. -/
theorem badRegionsEndWithTheirCodes : Obligations.BadRegionsEndWithTheirCodes := by
  refine fun s i hkey hlen => ⟨fun ⟨r, hr, hout⟩ => ?_, fun hfits hclash => ?_⟩
  · exact exec_of_checksGive (.range hkey hlen fun hfits => hout (hfits r hr)) nofun
  · exact exec_of_checksGive (.overlap hkey hlen hfits hclash) nofun

/-- Settles O9, by the two ways in which a command fails. -/
theorem failedCommandChangesOnlyStatus : Obligations.FailedCommandChangesOnlyStatus := by
  intro s t i hx hcode
  rcases exec_failed_cases hx hcode with ⟨e, -, rfl⟩ | ⟨-, rfl⟩ <;> rfl

end
